-- ==== Sys2Proof/Word.lean ====
section
/-! DEFINITION. The word types of SRSER, each width named once (spec/00_scope.md R9, spec/30_encoding.md R60).
Every value is unsigned (spec/00_scope.md section 5); bit 0 is the least significant bit. -/

namespace Sys2Proof

/-- An 8-bit value: a pattern byte, an address byte, a position, a table index (R9 `BYTE_BITS`). -/
abbrev Byte := BitVec 8

/-- A pin identifier, `PINW` = 8 bits (R9, D4). -/
abbrev PinId := BitVec 8

/-- A pulse delay in microseconds, `DELAYW` = 32 bits unsigned (R9, D4). -/
abbrev Delay := BitVec 32

/-- A command word, `CMDW` = 64 bits (R9, R55). -/
abbrev CommandWord := BitVec 64

/-- The frame of one transfer, `FRAME_BITS` = 16 bits: address byte above pattern byte (R9, R51). -/
abbrev Frame := BitVec 16

end Sys2Proof
end

