-- ==== Sys2Proof/Config.lean ====
section
/-! DEFINITION. The parameters of spec/00_scope.md R9 as named constants, the parameters the spec leaves open
(TABLE[1..9], the wired pins, the number of issuers) as data a state carries, and the free values. -/

namespace Sys2Proof

namespace Config

/-- `NDIGITS`: positions 0 to 7 (R9). -/
abbrev nDigits : Nat := 8

/-- `TABLE_SIZE`: indices 0 to 11 (R9). -/
def tableSize : Nat := 12

/-- `BYTE_BITS`: the bits SHIFTOUT sends (R9, R76). -/
abbrev byteBits : Nat := 8

/-- `FRAME_BITS`: the bits of a frame and the cells of the chain (R9, R33). -/
abbrev frameBits : Nat := 16

/-- `PULSES_PER_WRITE`: what the nominal time of a write is reckoned with (R9, R132). -/
abbrev pulsesPerWrite : Nat := 17

/-- `DEFAULT_PULSE_DELAY`, 150 microseconds (R9, R13). -/
def defaultPulseDelay : Delay := 150#32

/-- `TABLE[0]`, the numeral 0 (R9, R70). -/
def table0 : Byte := 0xC0#8

/-- `TABLE[10]`, the decimal point (R9, R70). -/
def table10 : Byte := 0x7F#8

/-- `TABLE[11]`, off (R9, R70). -/
def table11 : Byte := 0xFF#8

/-- The defaults of `TABLE[1..9]`. PRESUMED (log 10): the spec gives them "from general knowledge, not in source"
(R70, K1). unsafe: a claim that uses one must name it. -/
def defaultNumerals : Vector Byte 9 :=
  #v[0xF9#8, 0xA4#8, 0xB0#8, 0x99#8, 0x92#8, 0x82#8, 0xF8#8, 0x80#8, 0x90#8]

/-- `N_ISSUERS`: OPEN, default 1 (R9, D16). -/
def defaultIssuers : Nat := 1

/-- The byte DIGITS returns for an index above 11: a FREE VALUE, fresh at each draw (R72, U3; log 9). safe. -/
opaque freeByte : Nat → Byte

/-- Which of several enabled transitions is next where the schedule does not say: a FREE VALUE (R42; log 3). safe. -/
opaque freeTurn : Nat → Nat

end Config

/-- The pins the shift-register pair is physically wired to: `WIRE_DATA`, `WIRE_CLOCK`, `WIRE_LATCH`, OPEN (R9, R33). -/
structure Wires where
  data : PinId
  clock : PinId
  latch : PinId
  deriving DecidableEq, Repr

/-- "pairwise distinct, parameters of the model" (R33). -/
def Wires.distinct (w : Wires) : Bool :=
  w.data != w.clock && w.data != w.latch && w.clock != w.latch

/-- The parameters the spec leaves open, fixed for a machine: no transition changes them (R15, R33). A statement over
every state is a statement over every value of them. -/
structure Params where
  /-- `TABLE[1]` to `TABLE[9]`, in order (R70). -/
  numerals : Vector Byte 9
  wires : Wires
  deriving DecidableEq, Repr

namespace Config

/-- The document's example wiring 9, 8, 7 (R9). DESIGN CHOICE (log 14): the spec leaves it open. unsafe: a claim
about the panel that uses these pins must name them. -/
def defaultWires : Wires := ⟨9#8, 8#8, 7#8⟩

def defaultParams : Params := ⟨defaultNumerals, defaultWires⟩

end Config

end Sys2Proof
end

