-- ==== Sys2Proof/Syntax.lean ====
section
/-! DEFINITION. The operations of spec/opcode_table.json, one constructor per row: the three commands of the command
port (spec/30_encoding.md R55) and the two internal routines of the Shift-Register Bus
(spec/41_shift_register_bus.md R75, R76). -/

namespace Sys2Proof

/-- The line PULSE acts on: "one of `CLOCK`, `LATCH`", never the data line (R75). -/
inductive PulseLine where
  | clock
  | latch
  deriving DecidableEq, Repr

/-- One operation of the block. Operands are unsigned and used as they stand (R60). -/
inductive Instr where
  /-- INITIALISE data_pin, clock_pin, latch_pin [, delay_us] (R85). `dv` says whether the delay operand is present;
  the word's `delay_us` field is kept as it stands also when `dv` is false, where the block ignores it (R56). -/
  | initialise (dataPin clockPin latchPin : PinId) (dv : Bool) (delayUs : Delay)
  /-- WRITEDIGIT position, pattern (R87). A position above 7 is a legal operand that faults at issue (R57, R106). -/
  | writeDigit (position pattern : Byte)
  /-- DIGITS index (R71). An index above 11 is a legal operand (R58, R72). -/
  | digits (index : Byte)
  /-- SHIFTOUT byte, an internal routine with no command word (R76, R62). -/
  | shiftOut (byte : Byte)
  /-- PULSE line, an internal routine with no command word (R75, R62). -/
  | pulse (line : PulseLine)
  deriving DecidableEq, Repr

end Sys2Proof
end

