-- ==== Sys2Proof/WellFormed.lean ====
section
/-! DEFINITION. Which operations are well formed AS COMMANDS: the ones the command encoding has a word for
(spec/30_encoding.md R55, R62). Operand ranges need no check of their own: every field's type holds exactly the
values its encoding admits (R60), positions above 7 and indices above 11 are legal encodings (R59), and PULSE's
operand has no constructor for the data line (R75). -/

namespace Sys2Proof

/-- "The two internal routines have no command word and cannot be issued" (R62); the other three can. -/
def Instr.wf : Instr → Bool
  | .initialise _ _ _ _ _ => true
  | .writeDigit _ _ => true
  | .digits _ => true
  | .shiftOut _ => false
  | .pulse _ => false

end Sys2Proof
end

