-- ==== Sys2Proof/Decode.lean ====
section
/-! DEFINITION. The command decoder and encoder (spec/30_encoding.md R55 to R60), and the wire encoding (R50 to R54).
The command word is "a single 64-bit value with no byte-level view" (spec/20_memory.md R32). -/

namespace Sys2Proof

/-- Why a word is illegal (R59). -/
inductive Illegal where
  /-- `op` is 0x0 or 0x4 to 0xF. -/
  | reservedOp (op : BitVec 4)
  /-- `op` is 0x1, 0x2 or 0x3 and a reserved field of its format is not zero. -/
  | reservedField (op : BitVec 4)
  deriving DecidableEq, Repr

/-- The operation field `W[63:60]` (R55). -/
def opField (w : CommandWord) : BitVec 4 := w.extractLsb' 60 4

/-- Format I (R56). -/
def decodeI (w : CommandWord) : Except Illegal Instr :=
  if w.extractLsb' 56 3 = 0#3 then
    .ok (.initialise (w.extractLsb' 48 8) (w.extractLsb' 40 8) (w.extractLsb' 32 8)
      (w.getLsbD 59) (w.extractLsb' 0 32))
  else .error (.reservedField (opField w))

/-- Format W (R57). -/
def decodeW (w : CommandWord) : Except Illegal Instr :=
  if w.extractLsb' 16 44 = 0#44 then .ok (.writeDigit (w.extractLsb' 8 8) (w.extractLsb' 0 8))
  else .error (.reservedField (opField w))

/-- Format D (R58). -/
def decodeD (w : CommandWord) : Except Illegal Instr :=
  if w.extractLsb' 8 52 = 0#52 then .ok (.digits (w.extractLsb' 0 8))
  else .error (.reservedField (opField w))

/-- The decoder: total on all 2^64 words (R59). -/
def decode (w : CommandWord) : Except Illegal Instr :=
  if opField w = 1#4 then decodeI w
  else if opField w = 2#4 then decodeW w
  else if opField w = 3#4 then decodeD w
  else .error (.reservedOp (opField w))

/-- A field of a command word whose lowest bit is bit `lo`. -/
def fieldAt {n : Nat} (v : BitVec n) (lo : Nat) : CommandWord := v.setWidth 64 <<< lo

/-- The word of a command, from the format tables of R56 to R58; none for the internal routines (R62). -/
def encode : Instr → Option CommandWord
  | .initialise d c l dv us =>
    some (fieldAt 1#4 60 ||| fieldAt (BitVec.ofBool dv) 59 ||| fieldAt d 48 ||| fieldAt c 40 ||| fieldAt l 32 |||
      fieldAt us 0)
  | .writeDigit p pat => some (fieldAt 2#4 60 ||| fieldAt p 8 ||| fieldAt pat 0)
  | .digits i => some (fieldAt 3#4 60 ||| fieldAt i 0)
  | .shiftOut _ => none
  | .pulse _ => none

/-- The match and mask of each command's row (R56 to R58, spec/opcode_table.json). -/
def rowMatchMask : Instr → Option (CommandWord × CommandWord)
  | .initialise _ _ _ _ _ => some (0x1000000000000000#64, 0xF700000000000000#64)
  | .writeDigit _ _ => some (0x2000000000000000#64, 0xFFFFFFFFFFFF0000#64)
  | .digits _ => some (0x3000000000000000#64, 0xFFFFFFFFFFFFFF00#64)
  | .shiftOut _ => none
  | .pulse _ => none

/-- The command word whose low `nbits` bits are those of `w` and whose other bits are 0. -/
def tableWord (nbits w : Nat) : CommandWord := BitVec.ofNat 64 (w % 2 ^ nbits)

/-- What the decoder reads from an instruction given by `nbits` bits of `w`. A command is one 64-bit word (R55), so
the word is `w` with zeros above `nbits`; more than 64 bits are no command. The rows SHIFTOUT and PULSE are wire
patterns that "have no command word and cannot be issued" (R62), so no `w` gives them (log 6). -/
def decodeTableWord (nbits w : Nat) : Option Instr :=
  if nbits ≤ 64 then
    match decode (tableWord nbits w) with
    | .ok i => some i
    | .error _ => none
  else none

/-- `OneHot(p) = trunc_8(1 << p)`, defined "for `p` in 0 to 7" only (R52, D20). DESIGN CHOICE (log 31): this function is
total, and its value above 7 is no address byte; every definition here that sends one asks for the range first. -/
def oneHot (p : Byte) : Byte := 1#8 <<< p.toNat

/-- Whether the position operand is in contract, 0 to 7, where `OneHot` is defined (R52, R87, R106). -/
def positionInRange (p : Byte) : Bool := decide (p.toNat < Config.nDigits)

/-- The frame `F = {OneHot(position), pattern}` of a position in contract (R51, R87). -/
def frameOf (p pat : Byte) : Frame := oneHot p ++ pat

/-- The bits of a byte in wire order, bit 7 first (R32, R76). -/
def byteBitsMsbFirst (b : Byte) : List Bool :=
  (List.range Config.byteBits).map fun j => b.getLsbD (Config.byteBits - 1 - j)

/-- The wire pattern of an operation (spec/opcode_table.json, R51, R54): for WRITEDIGIT and SHIFTOUT the levels of
the data line, one per bit cell; for PULSE the levels of the pulsed line. INITIALISE and DIGITS send no frame, and
neither does a WRITEDIGIT with a position above 7: "nothing is sent" (R106). -/
def wirePattern : Instr → List Bool
  | .initialise _ _ _ _ _ => []
  | .writeDigit p pat => if positionInRange p then byteBitsMsbFirst (oneHot p) ++ byteBitsMsbFirst pat else []
  | .digits _ => []
  | .shiftOut b => byteBitsMsbFirst b
  | .pulse _ => [true, false]

end Sys2Proof
end

