-- ==== Sys2Proof/Machine/State.lean ====
section
/-! DEFINITION. The architectural state of SRSER (spec/10_state.md R10 to R20, spec/20_memory.md R33), the reasons a
step can stop, and the state after reset (spec/70_reset_and_hazards.md R120, spec/10_state.md section 8). -/

namespace Sys2Proof.Machine

/-- A level of a line or a cell of the chain: 0, 1 or X, "no known value" (R18, R33, spec/00_scope.md section 5).
`x` is the spec's own third value; a claim may not rest on it (log 12). -/
inductive Level where
  | low
  | high
  | x
  deriving DecidableEq, Repr

/-- A pin register: a pin identifier, or X (R12). X is the reset value the spec states. -/
inductive PinReg where
  | x
  | pin (p : PinId)
  deriving DecidableEq, Repr

/-- The fault codes 0 to 3 of `FAULT` (R14, R101). -/
inductive FaultCode where
  | none
  | notInitialised
  | positionRange
  | illegalCommand
  deriving DecidableEq, Repr

/-- The code's number (R101). -/
def FaultCode.toNat : FaultCode → Nat
  | .none => 0
  | .notInitialised => 1
  | .positionRange => 2
  | .illegalCommand => 3

/-- The "value recorded" column of R101, "for the model's fault record; the block stores only the code" (log 20). -/
inductive FaultInfo where
  | none
  | position (p : Byte)
  | word (w : CommandWord)
  deriving DecidableEq, Repr

/-- The mode of a GPIO line (R18). -/
inductive LineMode where
  | unconfigured
  | output
  deriving DecidableEq, Repr

/-- A GPIO line: (mode, level) (R18). -/
structure Line where
  mode : LineMode
  level : Level
  deriving DecidableEq, Repr

/-- The value of every line after reset (R18), which is also what an unlisted pin reads as. -/
def Line.atReset : Line := ⟨.unconfigured, .x⟩

/-- The lines `GPIO[pin]` that differ from their reset value, by pin number, in one canonical form (`Gpio.wf`). -/
abbrev Gpio := List (Nat × Line)

/-- `FRAME_BITS` = sixteen cells; entry `i` is cell `i` (R33). -/
abbrev Cells := Vector Level Config.frameBits

/-- The downstream chain: the shift stage `SR` and the output latch `OUT` (R33). -/
structure Chain where
  sr : Cells
  out : Cells
  deriving DecidableEq, Repr

/-- All cells hold X. -/
def Cells.allX : Cells := Vector.replicate Config.frameBits .x

/-- A trace event: `Cfg(pin)`, `Drv(pin, b)`, `Wait(d)` (R20). -/
inductive Event where
  | cfg (pin : PinId)
  | drv (pin : PinId) (high : Bool)
  | wait (d : Delay)
  deriving DecidableEq, Repr

/-- A command in flight with its latched operands (R17). -/
inductive Command where
  | initialise (dataPin clockPin latchPin : PinId) (dv : Bool) (delayUs : Delay)
  | writeDigit (frame : Frame)
  deriving DecidableEq, Repr

/-- The sequencing cursor `SEQ[i]` (R16): `Run(c, k)` has `k` the next micro-operation of `c`. -/
inductive Cursor where
  | idle
  | run (c : Command) (k : Nat)
  deriving DecidableEq, Repr

/-- An issuer: its cursor (R16, R113); the words it will still present, first one first (R122; log 1); and the bytes
DIGITS has returned to it since reset, oldest first (R71; log 11). The last two are the issuer's, not the block's. -/
structure Issuer where
  seq : Cursor
  script : List CommandWord
  returned : List Byte
  deriving DecidableEq, Repr

/-- One choice of the outside world: which issuer's transition is next (R16, R42), or Reset (R120). Issuer `i` of the
spec is number `i - 1` here. -/
inductive Turn where
  | issuer (j : Nat)
  | reset
  deriving DecidableEq, Repr

/-- Everything the spec gives the machine, grouped as in R10, and the model's own inputs. -/
structure State where
  /-- block: `INIT` (R11) -/
  init : Bool
  /-- block: `PIN_DATA` (R12) -/
  pinData : PinReg
  /-- block: `PIN_CLOCK` (R12) -/
  pinClock : PinReg
  /-- block: `PIN_LATCH` (R12) -/
  pinLatch : PinReg
  /-- block: `PULSE_DELAY` (R13) -/
  pulseDelay : Delay
  /-- block: `FAULT` (R14) -/
  fault : FaultCode
  /-- block: `SEQ[i]` of each of the `N_ISSUERS` issuers, with the issuer's own script and returned bytes (R16) -/
  issuers : List Issuer
  /-- environment: `GPIO` (R18) -/
  gpio : Gpio
  /-- environment: `SR` and `OUT` (R33) -/
  chain : Chain
  /-- observation: `TRACE`, oldest first (R20) -/
  trace : List Event
  /-- observation: the fault record (R101) -/
  faultInfo : FaultInfo
  /-- block: `TABLE[1..9]` (R15, R70), and the wired pins (R33) -/
  params : Params
  /-- the model's own: the turns the outside world takes next (log 1) -/
  schedule : List Turn
  /-- the model's own: the issuer that presents the command `exec` is given (log 7) -/
  active : Nat
  /-- the model's own: the counter free values are drawn with (logs 3, 9) -/
  fresh : Nat
  deriving DecidableEq, Repr

/-- Why the machine stops. -/
inductive Fault where
  /-- Raised by `step` and by every meaning while `FAULT` is not 0: no `Issue` and no `Step` is enabled (R108, U17
  "stuck"). safe: the block does nothing there; only Reset goes on from it (log 4). -/
  | halted (code : FaultCode)
  deriving DecidableEq, Repr

/-- Why a step or a meaning is refused. -/
inductive Refusal where
  /-- Raised by an arm of `exec` without a meaning; no arm is without one. safe. -/
  | notModelled (mnemonic : String)
  /-- Raised by a `CFG` or `DRV` whose pin register holds X: "a model must refuse the step" (R19, U7). safe: it
  arises in no run (R12). -/
  | pinRegisterX
  /-- Raised by a command's meaning when the presenting issuer does not exist (R9); `step` never does this. safe
  (log 8). -/
  | noIssuer
  /-- Raised by a command's meaning when the presenting issuer's own cursor is `Run`: no `Issue` is enabled (R16,
  R125); `step` never does this. safe (log 8). -/
  | issuerBusy
  /-- Raised by `step` at a cursor past its command's last micro-operation, which is no `Run` cursor of R16. safe: no
  run reaches one (log 8). -/
  | cursorOutOfRange
  deriving DecidableEq, Repr

/-- An issuer after reset with the script it is to run: `Idle`, nothing returned (R16, R113). -/
def Issuer.start (script : List CommandWord) : Issuer := ⟨.idle, script, []⟩

/-- The state after reset for `n` issuers and given parameters (R120, spec/10_state.md section 8). -/
def State.resetFor (n : Nat) (params : Params) : State where
  init := false
  pinData := .x
  pinClock := .x
  pinLatch := .x
  pulseDelay := Config.defaultPulseDelay
  fault := .none
  issuers := List.replicate n (Issuer.start [])
  gpio := []
  chain := ⟨Cells.allX, Cells.allX⟩
  trace := []
  faultInfo := .none
  params := params
  schedule := []
  active := 0
  fresh := 0

/-- The machine right after reset, with the default parameters and one issuer (R9, R120). -/
def State.reset : State := State.resetFor Config.defaultIssuers Config.defaultParams

end Sys2Proof.Machine
end

