-- ==== Sys2Proof/Machine/Gpio.lean ====
section
/-! DEFINITION. The GPIO Line's operations on the canonical list of lines (spec/10_state.md R18, R19,
spec/60_exceptions.md R112): configure as output, drive high, drive low. No operation reads a line for the block. -/

namespace Sys2Proof.Machine

/-- The line of a pin; an unlisted pin is at its reset value (R18). -/
def Gpio.lineAt : Gpio → Nat → Line
  | [], _ => Line.atReset
  | (b, m) :: g, a => if a = b then m else Gpio.lineAt g a

/-- `GPIO[pin]` (R18). -/
def Gpio.line (g : Gpio) (p : PinId) : Line := Gpio.lineAt g p.toNat

/-- Puts an entry in front, unless the line is at its reset value, which is not listed. -/
def Gpio.cons (a : Nat) (l : Line) (g : Gpio) : Gpio := if l = Line.atReset then g else (a, l) :: g

/-- Writes one line, keeping pins rising and listing no line at its reset value. -/
def Gpio.putAt (a : Nat) (l : Line) : Gpio → Gpio
  | [] => Gpio.cons a l []
  | (b, m) :: g =>
    if a < b then Gpio.cons a l ((b, m) :: g)
    else if a = b then Gpio.cons a l g
    else (b, m) :: Gpio.putAt a l g

/-- `GPIO[pin] <- l`. -/
def Gpio.put (g : Gpio) (p : PinId) (l : Line) : Gpio := Gpio.putAt p.toNat l g

/-- `CFG(pin)`: the mode becomes Output, the level is unchanged (R19). -/
def Gpio.configure (g : Gpio) (p : PinId) : Gpio := g.put p ⟨.output, (g.line p).level⟩

/-- The level a driven bit puts on a line: 1 is high, 0 is low (R54). -/
def Level.ofBool (b : Bool) : Level := if b then .high else .low

/-- The level of a line after `DRV(pin, b)`: the bit on an Output line, X on a line never configured (R19, U5). -/
def Line.driven (l : Line) (b : Bool) : Line :=
  ⟨l.mode, if l.mode = .output then Level.ofBool b else .x⟩

/-- `DRV(pin, b)` on the lines (R19). -/
def Gpio.drive (g : Gpio) (p : PinId) (b : Bool) : Gpio := g.put p ((g.line p).driven b)

/-- Pins from `lo` on rise strictly, are below 2^8, and no listed line is at its reset value. -/
def Gpio.wfFrom (lo : Nat) : Gpio → Bool
  | [] => true
  | (a, l) :: g => decide (lo ≤ a) && decide (a < 256) && decide (l ≠ Line.atReset) && Gpio.wfFrom (a + 1) g

/-- The canonical form: equal lines are equal lists. -/
def Gpio.wf (g : Gpio) : Bool := Gpio.wfFrom 0 g

end Sys2Proof.Machine
end

