-- ==== Sys2Proof/Machine/Chain.lean ====
section
/-! DEFINITION. The reference model of the downstream shift registers and their latch (spec/20_memory.md R33, R34;
decision D17, the rising edge is K3; log 13). -/

namespace Sys2Proof.Machine

/-- `{SR[14:0], b}`: one shift, the newest bit enters at cell 0 and the last cell's falls out (R34). -/
def Cells.shiftIn (b : Level) (v : Cells) : Cells :=
  ⟨(b :: v.toList.take (Config.frameBits - 1)).toArray, by simp [Config.frameBits]⟩

/-- The cells that hold a 16-bit value, cell `i` its bit `i`. -/
def Cells.ofFrame (f : Frame) : Cells := Vector.ofFn fun i => Level.ofBool (f.getLsbD i.val)

/-- The clock pin's reaction: a rise from 0 shifts in the data level, a rise from X makes every cell X (R34). -/
def Chain.clockEdge (old new data : Level) (c : Chain) : Chain :=
  match old, new with
  | .low, .high => { c with sr := c.sr.shiftIn data }
  | .x, .high => { c with sr := Cells.allX }
  | _, _ => c

/-- The latch pin's reaction: a rise from 0 copies all sixteen cells, a rise from X makes every output X (R34). -/
def Chain.latchEdge (old new : Level) (c : Chain) : Chain :=
  match old, new with
  | .low, .high => { c with out := c.sr }
  | .x, .high => { c with out := Cells.allX }
  | _, _ => c

/-- Reaction to a drive of `pin` that took its line from `old` to `new`, the data line then being at `data` (R34).
The wired pins are distinct (R33), so at most one of the two reactions acts (log 25). -/
def Chain.react (w : Wires) (pin : PinId) (old new data : Level) (c : Chain) : Chain :=
  if pin = w.clock then
    if pin = w.latch then (c.clockEdge old new data).latchEdge old new else c.clockEdge old new data
  else if pin = w.latch then c.latchEdge old new
  else c

end Sys2Proof.Machine
end

