-- ==== Sys2Proof/Machine/Flags.lean ====
section
/-! DEFINITION. The block's two flags: `INIT` (spec/10_state.md R11) and `FAULT` (R14). It has no flag or condition
code other than these (R23), and no instruction computes one from a result. -/

namespace Sys2Proof.Machine

/-- `INIT <- 1` (R11); nothing but reset writes 0. -/
def State.setInit (s : State) : State := { s with init := true }

/-- Whether the block is halted: `FAULT` is not 0 (R108). -/
def State.halted (s : State) : Bool := s.fault != .none

/-- `FAULT <- code` with the model's fault record (R14, R101). -/
def State.setFault (code : FaultCode) (info : FaultInfo) (s : State) : State :=
  { s with fault := code, faultInfo := info }

end Sys2Proof.Machine
end

