-- ==== Sys2Proof/Machine/Ops.lean ====
section
/-! DEFINITION. The named operations on the state: register writes, the lines, the trace, the cursors, taking a fault
(spec/60_exceptions.md R104) and the reset that alone leaves it (R109, spec/70_reset_and_hazards.md R120), and the
gate every command passes at issue (spec/10_state.md R16). -/

namespace Sys2Proof.Machine

/-- The outcome of a meaning or a step. -/
abbrev Result := Host.Outcome State Fault Refusal

/-- Goes on from a next state; a fault or a refusal stays. -/
def andThen (r : Result) (f : State → Result) : Result :=
  match r with
  | .next s => f s
  | .fault e => .fault e
  | .refused e => .refused e

/-- "one atomic write of all three" pin registers (R85 u0). -/
def State.setPins (d c l : PinId) (s : State) : State :=
  { s with pinData := .pin d, pinClock := .pin c, pinLatch := .pin l }

/-- `PULSE_DELAY <- d` (R13). -/
def State.setDelay (d : Delay) (s : State) : State := { s with pulseDelay := d }

/-- Writes the lines. -/
def State.setGpio (g : Gpio) (s : State) : State := { s with gpio := g }

/-- Writes the downstream chain. -/
def State.setChain (c : Chain) (s : State) : State := { s with chain := c }

/-- Appends one event to `TRACE` (R20). -/
def State.log (e : Event) (s : State) : State := { s with trace := s.trace ++ [e] }

/-- Writes the issuers. -/
def State.setIssuers (is : List Issuer) (s : State) : State := { s with issuers := is }

/-- Writes what is left of the schedule. -/
def State.setSchedule (ts : List Turn) (s : State) : State := { s with schedule := ts }

/-- Names the issuer that presents the next command. -/
def State.setActive (j : Nat) (s : State) : State := { s with active := j }

/-- Moves on to the next free value. -/
def State.tick (s : State) : State := { s with fresh := s.fresh + 1 }

/-- `SEQ[j] <- c` (R16). -/
def State.setSeq (j : Nat) (c : Cursor) (s : State) : State :=
  s.setIssuers (s.issuers.modify j fun i => { i with seq := c })

/-- What is left of issuer `j`'s script. -/
def State.setScript (j : Nat) (ws : List CommandWord) (s : State) : State :=
  s.setIssuers (s.issuers.modify j fun i => { i with script := ws })

/-- Returns one byte to issuer `j` (R71). -/
def State.giveByte (j : Nat) (b : Byte) (s : State) : State :=
  s.setIssuers (s.issuers.modify j fun i => { i with returned := i.returned ++ [b] })

/-- `CFG(pin)` with a resolved pin (R19). -/
def State.cfgLine (p : PinId) (s : State) : State := (s.setGpio (s.gpio.configure p)).log (.cfg p)

/-- `DRV(pin, b)` with a resolved pin: the line, the chain's reaction with the levels before and after, the trace
(R19, R34). -/
def State.drvLine (p : PinId) (b : Bool) (s : State) : State :=
  ((s.setGpio (s.gpio.drive p b)).setChain
    (s.chain.react s.params.wires p (s.gpio.line p).level ((s.gpio.drive p b).line p).level
      ((s.gpio.drive p b).line s.params.wires.data).level)).log (.drv p b)

/-- `raise <Fault>(info)`: "does exactly this, as one atomic step, and nothing else: `FAULT <- code`" (R104). The
record of the offending value is the model's (R101; log 20). -/
def State.raise (code : FaultCode) (info : FaultInfo) (s : State) : State := s.setFault code info

/-- The Reset transition: every element of state at its reset value, `TABLE` and the wiring untouched (R120). It is
the only way out of a fault (R109). What the issuers will still present, the schedule and the free values' counter are
not the block's and stay (log 15). -/
def State.resetEvent (s : State) : State :=
  { State.resetFor s.issuers.length s.params with
    issuers := s.issuers.map fun i => Issuer.start i.script
    schedule := s.schedule
    fresh := s.fresh }

/-- The `Issue` transition's enabling (R16): `FAULT = 0` and the presenting issuer's cursor `Idle`. While halted
nothing is accepted (R108). -/
def issue (s : State) (accepted : State → Result) : Result :=
  if s.halted then .fault (.halted s.fault)
  else
    match s.issuers[s.active]? with
    | none => .refused .noIssuer
    | some i =>
      match i.seq with
      | .idle => accepted s
      | .run _ _ => .refused .issuerBusy

end Sys2Proof.Machine
end

