-- ==== Sys2Proof/Machine/Operands.lean ====
section
/-! DEFINITION. Operand forms: the three roles and the pin a role names when a micro-operation executes
(spec/10_state.md R12, R19) and the optional delay (spec/30_encoding.md R56). -/

namespace Sys2Proof.Machine

/-- "three logical roles (data, clock, latch)" (R12). -/
inductive Role where
  | data
  | clock
  | latch
  deriving DecidableEq, Repr

/-- The role a pulse acts on (R75). -/
def roleOfLine : PulseLine → Role
  | .clock => .clock
  | .latch => .latch

/-- The pin register of a role (R12). -/
def State.pinReg (s : State) : Role → PinReg
  | .data => s.pinData
  | .clock => s.pinClock
  | .latch => s.pinLatch

/-- `dv` = 1: the delay operand is present and is written; `dv` = 0: `PULSE_DELAY` unchanged (R56, R85 u7). -/
def State.optionalDelay (dv : Bool) (us : Delay) (s : State) : State := if dv then s.setDelay us else s

end Sys2Proof.Machine
end

