-- ==== Sys2Proof/Machine/DigitEncoder.lean ====
section
/-! DEFINITION. The Digit Encoder: the table and DIGITS (spec/40_digit_encoder.md R70 to R72). -/

namespace Sys2Proof.Machine

/-- `TABLE[0..11]` (R15, R70). -/
def tableEntries (p : Params) : List Byte :=
  Config.table0 :: (p.numerals.toList ++ [Config.table10, Config.table11])

/-- `TABLE[index]`, none for an index above 11 (R70, R72). -/
def tableAt (p : Params) (index : Byte) : Option Byte := (tableEntries p)[index.toNat]?

/-- DIGITS index (R71, R72): "executed wholly at issue". It returns one byte to the issuer and writes no register, no
line and no event. Above 11 the byte is free and fresh: it "may come different each time" (U3; log 9). -/
def execDigits (index : Byte) (s : State) : Result :=
  issue s fun t =>
    match tableAt t.params index with
    | some b => .next (t.giveByte t.active b)
    | none => .next ((t.giveByte t.active (Config.freeByte t.fresh)).tick)

end Sys2Proof.Machine
end

