-- ==== Sys2Proof/Machine/MicroOp.lean ====
section
/-! DEFINITION. The micro-operations, the only primitives by which the block acts (spec/00_scope.md R8,
spec/10_state.md R16, R19), and the execution of one and of a list of them. -/

namespace Sys2Proof.Machine

/-- One micro-operation: "one CFG, DRV, WAIT or register write" (R16). -/
inductive MicroOp where
  /-- R85 u0 -/
  | assignPins (dataPin clockPin latchPin : PinId)
  /-- `CFG(PIN_role)` -/
  | cfg (r : Role)
  /-- `DRV(PIN_role, b)` -/
  | drv (r : Role) (b : Bool)
  /-- `WAIT(PULSE_DELAY)` -/
  | wait
  /-- R85 u7 -/
  | delay (dv : Bool) (delayUs : Delay)
  /-- R85 u8 -/
  | setInit
  deriving DecidableEq, Repr

/-- Acts on the pin a role's register holds now; a register that holds X has no target and the step is refused (R12,
R19, U7). -/
def withPin (r : Role) (s : State) (act : PinId → State) : Result :=
  match s.pinReg r with
  | .x => .refused .pinRegisterX
  | .pin p => .next (act p)

/-- Executes one micro-operation, atomically (R16, R19). The pin and delay registers are read here (R12, R13). -/
def execMicroOp (u : MicroOp) (s : State) : Result :=
  match u with
  | .assignPins d c l => .next (s.setPins d c l)
  | .cfg r => withPin r s fun p => s.cfgLine p
  | .drv r b => withPin r s fun p => s.drvLine p b
  | .wait => .next (s.log (.wait s.pulseDelay))
  | .delay dv us => .next (s.optionalDelay dv us)
  | .setInit => .next s.setInit

/-- Executes a list of micro-operations in list order (R41). -/
def execMicroOps : List MicroOp → State → Result
  | [], s => .next s
  | u :: us, s => andThen (execMicroOp u s) (execMicroOps us)

end Sys2Proof.Machine
end

