-- ==== Sys2Proof/Machine/ShiftRegisterBus.lean ====
section
/-! DEFINITION. The Shift-Register Bus: PULSE and SHIFTOUT as lists of micro-operations
(spec/41_shift_register_bus.md R75, R76), and each executed as a routine of its own. -/

namespace Sys2Proof.Machine

/-- PULSE(role): drive high, wait Pulse Delay, drive low (R75). -/
def pulseOps (r : Role) : List MicroOp := [.drv r true, .wait, .drv r false]

/-- A bit cell: the data drive, then one clock pulse (R54, R76). -/
def cellOps (b : Bool) : List MicroOp := .drv .data b :: pulseOps .clock

/-- Bit cells in the order given. -/
def cellsOps (bs : List Bool) : List MicroOp := bs.flatMap cellOps

/-- SHIFTOUT(byte): eight bit cells, bit 7 first (R76). -/
def shiftOutOps (b : Byte) : List MicroOp := cellsOps (byteBitsMsbFirst b)

/-- An internal routine: its micro-operations in order (R75, R76). Nothing executes while the block is halted (R108).
It has no command word (R62) and runs only as part of WRITEDIGIT, whose list is the concatenation of these lists
(R87); this meaning is the routine by itself, from its first micro-operation to its last (log 6). -/
def execRoutine (us : List MicroOp) (s : State) : Result :=
  if s.halted then .fault (.halted s.fault) else execMicroOps us s

/-- SHIFTOUT byte (R76). -/
def execShiftOut (b : Byte) (s : State) : Result := execRoutine (shiftOutOps b) s

/-- PULSE line (R75). -/
def execPulse (l : PulseLine) (s : State) : Result := execRoutine (pulseOps (roleOfLine l)) s

end Sys2Proof.Machine
end

