-- ==== Sys2Proof/Machine/DisplayDriver.lean ====
section
/-! DEFINITION. The Display Driver: INITIALISE and WRITEDIGIT (spec/42_display_driver.md R85 to R88), each as its issue
(spec/10_state.md R16) and its list of micro-operations. -/

namespace Sys2Proof.Machine

/-- INITIALISE's nine micro-operations u0 to u8, in this order (R85, D7). -/
def initialiseOps (d c l : PinId) (dv : Bool) (us : Delay) : List MicroOp :=
  [.assignPins d c l, .cfg .data, .cfg .clock, .cfg .latch,
    .drv .data false, .drv .clock false, .drv .latch false, .delay dv us, .setInit]

/-- The address byte of a frame, `F[15:8]` (R51). -/
def addrByte (f : Frame) : Byte := f.extractLsb' Config.byteBits Config.byteBits

/-- The pattern byte of a frame, `F[7:0]` (R51). -/
def patternByte (f : Frame) : Byte := f.extractLsb' 0 Config.byteBits

/-- WRITEDIGIT's 67 micro-operations u0 to u66: SHIFTOUT(addr), SHIFTOUT(pattern), PULSE(LATCH) (R87). -/
def writeDigitOps (f : Frame) : List MicroOp :=
  shiftOutOps (addrByte f) ++ (shiftOutOps (patternByte f) ++ pulseOps .latch)

/-- The fixed micro-operation list of a command in flight (R16). -/
def microOpsOf : Command → List MicroOp
  | .initialise d c l dv us => initialiseOps d c l dv us
  | .writeDigit f => writeDigitOps f

/-- INITIALISE at issue: accepted in either state of `INIT`, operands latched (R16, R17, R85, R86). -/
def execInitialise (d c l : PinId) (dv : Bool) (us : Delay) (s : State) : Result :=
  issue s fun t => .next (t.setSeq t.active (.run (.initialise d c l dv us) 0))

/-- WRITEDIGIT at issue: NotInitialised first, then PositionRange, else the frame is latched and the command runs
(R16, R17, R87, R103, R105, R106). -/
def execWriteDigit (p pat : Byte) (s : State) : Result :=
  issue s fun t =>
    if t.init = false then .next (t.raise .notInitialised .none)
    else if positionInRange p = false then .next (t.raise .positionRange (.position p))
    else .next (t.setSeq t.active (.run (.writeDigit (frameOf p pat)) 0))

end Sys2Proof.Machine
end

