-- ==== Sys2Proof/Machine/Dispatch.lean ====
section
/-! DEFINITION. The meaning of every operation, one arm per constructor of Instr. For a command it is the `Issue`
transition of spec/10_state.md R16, by the issuer `s.active`. -/

namespace Sys2Proof.Machine

def exec (i : Instr) (s : State) : Host.Outcome State Fault Refusal :=
  match i with
  | .initialise d c l dv us => Sys2Proof.Machine.execInitialise d c l dv us s
  | .writeDigit p pat => Sys2Proof.Machine.execWriteDigit p pat s
  | .digits index => Sys2Proof.Machine.execDigits index s
  | .shiftOut b => Sys2Proof.Machine.execShiftOut b s
  | .pulse line => Sys2Proof.Machine.execPulse line s

end Sys2Proof.Machine
end

