-- ==== Sys2Proof/Machine/Sequencer.lean ====
section
/-! DEFINITION. The machine's transitions `Issue(i, W)`, `Step(i)` and `Reset` (spec/10_state.md R16) and the choice
among them (spec/20_memory.md R42). The block has no program counter; the cursors play that part. -/

namespace Sys2Proof.Machine

/-- The cursor after micro-operation `k` of `c`: `Idle` after the last one, else `Run(c, k + 1)` (R16). -/
def Cursor.after (c : Command) (k : Nat) : Cursor :=
  if k + 1 < (microOpsOf c).length then .run c (k + 1) else .idle

/-- `Step(j)`: executes micro-operation `k` of `c` and moves the cursor (R16). -/
def stepMicroOp (j : Nat) (c : Command) (k : Nat) (s : State) : Result :=
  match (microOpsOf c)[k]? with
  | none => .refused .cursorOutOfRange
  | some u => andThen (execMicroOp u s) fun t => .next (t.setSeq j (Cursor.after c k))

/-- `Issue(j, w)`: decodes the word and executes it; an illegal word raises IllegalCommand (R16, R103, R107). -/
def present (j : Nat) (w : CommandWord) (s : State) : Result :=
  match decode w with
  | .ok i => exec i (s.setActive j)
  | .error _ => .next ((s.setActive j).raise .illegalCommand (.word w))

/-- The enabled transition of issuer `j`, if it has one: `Step` when its cursor is `Run`, `Issue` of its script's next
word when it is `Idle` (R16, R125). While halted none is enabled and the machine is stuck (R108; log 4). An issuer with
nothing enabled passes (log 2). -/
def advance (j : Nat) (s : State) : Result :=
  if s.halted then .fault (.halted s.fault)
  else
    match s.issuers[j]? with
    | none => .next s
    | some i =>
      match i.seq, i.script with
      | .run c k, _ => stepMicroOp j c k s
      | .idle, w :: ws => present j w (s.setScript j ws)
      | .idle, [] => .next s

/-- Whether an issuer has a transition to take (R16). -/
def Issuer.ready (i : Issuer) : Bool :=
  match i.seq, i.script with
  | .run _ _, _ => true
  | .idle, _ :: _ => true
  | .idle, [] => false

/-- The issuers from number `j` on that have a transition to take. -/
def readyFrom (j : Nat) : List Issuer → List Nat
  | [] => []
  | i :: is => if i.ready then j :: readyFrom (j + 1) is else readyFrom (j + 1) is

/-- One transition. The schedule says which (log 1). Where it says nothing, the only ready issuer moves; of several a
free value chooses (R42; log 3); with none ready the block is idle and nothing happens (R102, R122; log 5), or it is
halted and stuck. -/
def transition (s : State) : Result :=
  match s.schedule with
  | .reset :: ts => .next (s.setSchedule ts).resetEvent
  | .issuer j :: ts => advance j (s.setSchedule ts)
  | [] =>
    match readyFrom 0 s.issuers with
    | [] => if s.halted then .fault (.halted s.fault) else .next s
    | [j] => advance j s
    | j :: js => advance ((j :: js).getD (Config.freeTurn s.fresh % (js.length + 1)) j) s.tick

end Sys2Proof.Machine
end

