-- ==== Sys2Proof/Machine/Step.lean ====
section
/-! DEFINITION. One step of the machine, and the placing of a command where the next step presents it. -/

namespace Sys2Proof.Machine

/-- One transition of the machine (spec/10_state.md R16). -/
def step (s : State) : Host.Outcome State Fault Refusal := transition s

/-- `s` with a command word at the front of issuer 1's script, that issuer `Idle`, and its turn next: the very next
step issues exactly that word. A program has no other place: its commands are presented from outside (R122; log 1).
If there is no issuer, there is one now. -/
def State.withFetchWord (s : State) (nbits w : Nat) : State :=
  { s with
    issuers :=
      match s.issuers with
      | [] => [Issuer.start [tableWord nbits w]]
      | i :: is => { i with seq := .idle, script := tableWord nbits w :: i.script } :: is
    schedule := .issuer 0 :: s.schedule }

end Sys2Proof.Machine
end

