-- ==== Sys2Proof/Machine/Observe.lean ====
section
/-! DEFINITION. What can be read off `TRACE` (spec/10_state.md R20): the driven levels of a line, the waits, the pulse
events and the nominal time (spec/70_reset_and_hazards.md R131, R132); and the events of a micro-operation list. -/

namespace Sys2Proof.Machine

/-- The levels driven on a pin, in order (R76: "the sequence of driven data-line levels"). -/
def drivesOn (p : PinId) : List Event → List Bool
  | [] => []
  | .drv q b :: es => if q = p then b :: drivesOn p es else drivesOn p es
  | .cfg _ :: es => drivesOn p es
  | .wait _ :: es => drivesOn p es

/-- The durations of the `Wait` events, in order. -/
def waitsOf : List Event → List Delay
  | [] => []
  | .wait d :: es => d :: waitsOf es
  | .cfg _ :: es => waitsOf es
  | .drv _ _ :: es => waitsOf es

/-- "the nominal sums of waits" in microseconds (R78, R132). -/
def nominalTime (es : List Event) : Nat := ((waitsOf es).map BitVec.toNat).sum

/-- The nominal time of one WRITEDIGIT at pulse delay `d`: 17 d (R91, R132). -/
def nominalWriteTime (d : Delay) : Nat := Config.pulsesPerWrite * d.toNat

/-- Whether a list begins with a pulse event on `p`: `Drv(p, 1), Wait(d), Drv(p, 0)` (R20). -/
def beginsPulse (p : PinId) : List Event → Bool
  | .drv q true :: .wait _ :: .drv r false :: _ => q == p && r == p
  | _ => false

/-- The number of pulse events on a pin in one issuer's events (R20, R89). -/
def pulsesOn (p : PinId) : List Event → Nat
  | [] => 0
  | e :: es => (if beginsPulse p (e :: es) then 1 else 0) + pulsesOn p es

/-- The events of one pulse on pin `q` with delay `w` (R75). -/
def pulseEvents (q : PinId) (w : Delay) : List Event := [.drv q true, .wait w, .drv q false]

/-- The events of one bit cell on data pin `d` and clock pin `c` (R54). -/
def cellEvents (d c : PinId) (w : Delay) (b : Bool) : List Event := .drv d b :: pulseEvents c w

/-- The events of SHIFTOUT(byte) (R76). -/
def shiftOutEvents (d c : PinId) (w : Delay) (b : Byte) : List Event :=
  (byteBitsMsbFirst b).flatMap (cellEvents d c w)

/-- The 67 events of WRITEDIGIT with frame `f` (R87). -/
def writeDigitEvents (d c l : PinId) (w : Delay) (f : Frame) : List Event :=
  shiftOutEvents d c w (addrByte f) ++ (shiftOutEvents d c w (patternByte f) ++ pulseEvents l w)

/-- The six events of INITIALISE (R85). -/
def initialiseEvents (d c l : PinId) : List Event :=
  [.cfg d, .cfg c, .cfg l, .drv d false, .drv c false, .drv l false]

end Sys2Proof.Machine
end

