-- ==== Sys2Proof/Machine/Panel.lean ====
section
/-! DEFINITION. The meaning of the sixteen outputs for the eight-digit panel (spec/20_memory.md R36, R30), and the
segments a pattern bit controls (spec/30_encoding.md R53). Views of `OUT`: no transition reads them (R31). -/

namespace Sys2Proof.Machine

/-- `OUT[8 + q]`, the select line of panel `q` (R36). -/
def panelSelect (out : Cells) (q : Fin Config.nDigits) : Level :=
  out[Config.byteBits + q.val]'(by have := q.isLt; simp only [Config.nDigits, Config.byteBits, Config.frameBits] at *; omega)

/-- `OUT[s]`, the segment line `s`, shared by all panels (R36). -/
def segmentLine (out : Cells) (s : Fin Config.byteBits) : Level :=
  out[s.val]'(by have := s.isLt; simp only [Config.byteBits, Config.frameBits] at *; omega)

/-- "Segment `s` of panel `q` is lit exactly when `OUT[8 + q] = 1` and `OUT[s] = 0`" (R36). DESIGN CHOICE (log 34): with X on
the select or the segment line, which R36 does not settle, the answer is `false`, "not known to be lit"; unsafe if that is
read as "not lit". -/
def segmentLit (out : Cells) (q : Fin Config.nDigits) (s : Fin Config.byteBits) : Bool :=
  panelSelect out q == .high && segmentLine out s == .low

/-- A panel that is dark because it is not selected, as R36 calls the seven panels not written. DESIGN CHOICE (log 33): R36
does not define dark; a selected panel that 0xFF blanks has no segment lit (`segmentLit`) and is not called dark here. -/
def panelDark (out : Cells) (q : Fin Config.nDigits) : Bool := panelSelect out q == .low

/-- The two 4-digit modules, left to right. -/
inductive PanelModule where
  | left
  | right
  deriving DecidableEq, Repr

/-- Positions 0 to 3 are the left module and 4 to 7 the right one (R30). DEDUCED (log 24). -/
def moduleOf (q : Fin Config.nDigits) : PanelModule := if q.val < Config.nDigits / 2 then .left else .right

/-- The segments of a digit; `dp` is the decimal point. -/
inductive Segment where
  | a
  | b
  | c
  | d
  | e
  | f
  | g
  | dp
  deriving DecidableEq, Repr

/-- The pattern bit of a segment (R53). PRESUMED but for bit 7 = decimal point (K2; log 23). unsafe where a claim
reads a pattern as a glyph; no transition depends on it. -/
def Segment.bit : Segment → Fin Config.byteBits
  | .a => 0
  | .b => 1
  | .c => 2
  | .d => 3
  | .e => 4
  | .f => 5
  | .g => 6
  | .dp => 7

/-- "bit value 0 means 'segment lit'" (R53). -/
def patternLights (pat : Byte) (s : Fin Config.byteBits) : Bool := !pat.getLsbD s.val

end Sys2Proof.Machine
end

