-- ==== Sys2Proof/Machine/Script.lean ====
section
/-! DEFINITION. The script syntax of spec/30_encoding.md R61, from characters to command words, the twelve commands of
`digits()` (R63), and the placing of scripts with the issuers, which is how a program comes to run (R122; log 1). -/

namespace Sys2Proof.Machine

/-- One line of a script: the issuer (1 for the first) and the command (R61). -/
structure ScriptLine where
  issuer : Nat
  command : Instr
  deriving DecidableEq, Repr

/-- The value of a digit character. -/
def digitValue (c : Char) : Option Nat :=
  if 48 ≤ c.toNat ∧ c.toNat ≤ 57 then some (c.toNat - 48)
  else if 65 ≤ c.toNat ∧ c.toNat ≤ 70 then some (c.toNat - 55)
  else if 97 ≤ c.toNat ∧ c.toNat ≤ 102 then some (c.toNat - 87)
  else none

/-- Digits of a base after a value read so far. -/
def digitsFrom (base acc : Nat) : List Char → Option Nat
  | [] => some acc
  | c :: cs =>
    match digitValue c with
    | none => none
    | some d => if d < base then digitsFrom base (acc * base + d) cs else none

/-- "numbers in decimal, `0x` or `0b`" (R61). -/
def scriptNumber : List Char → Option Nat
  | '0' :: 'x' :: c :: cs => digitsFrom 16 0 (c :: cs)
  | '0' :: 'b' :: c :: cs => digitsFrom 2 0 (c :: cs)
  | c :: cs => digitsFrom 10 0 (c :: cs)
  | [] => none

/-- Splits at every separator. -/
def splitChars (sep : Char) : List Char → List (List Char)
  | [] => [[]]
  | c :: cs =>
    if c = sep then [] :: splitChars sep cs
    else
      match splitChars sep cs with
      | [] => [[c]]
      | f :: fs => (c :: f) :: fs

/-- Drops spaces at both ends. -/
def trimChars (cs : List Char) : List Char :=
  ((cs.dropWhile (· = ' ')).reverse.dropWhile (· = ' ')).reverse

/-- All of a list of results, or none. -/
def allSome {α : Type} : List (Option α) → Option (List α)
  | [] => some []
  | none :: _ => none
  | some a :: rest => (allSome rest).map (a :: ·)

/-- A command from its mnemonic and operands (R61). INITIALISE with three operands has `dv` = 0 and a zero delay field,
with four `dv` = 1 (R56). An operand that does not fit its field is no command (log 26). -/
def scriptCommand (name : List Char) (args : List Nat) : Option Instr :=
  if name = ['I', 'N', 'I', 'T', 'I', 'A', 'L', 'I', 'S', 'E'] then
    match args with
    | [d, c, l] =>
      if d < 2 ^ 8 ∧ c < 2 ^ 8 ∧ l < 2 ^ 8 then
        some (.initialise (BitVec.ofNat 8 d) (BitVec.ofNat 8 c) (BitVec.ofNat 8 l) false 0)
      else none
    | [d, c, l, us] =>
      if d < 2 ^ 8 ∧ c < 2 ^ 8 ∧ l < 2 ^ 8 ∧ us < 2 ^ 32 then
        some (.initialise (BitVec.ofNat 8 d) (BitVec.ofNat 8 c) (BitVec.ofNat 8 l) true (BitVec.ofNat 32 us))
      else none
    | _ => none
  else if name = ['W', 'R', 'I', 'T', 'E', 'D', 'I', 'G', 'I', 'T'] then
    match args with
    | [p, pat] =>
      if p < 2 ^ 8 ∧ pat < 2 ^ 8 then some (.writeDigit (BitVec.ofNat 8 p) (BitVec.ofNat 8 pat)) else none
    | _ => none
  else if name = ['D', 'I', 'G', 'I', 'T', 'S'] then
    match args with
    | [i] => if i < 2 ^ 8 then some (.digits (BitVec.ofNat 8 i)) else none
    | _ => none
  else none

/-- "mnemonic in capitals, operands separated by commas" (R61). -/
def scriptStatement (cs : List Char) : Option Instr :=
  let body := trimChars cs
  match allSome ((splitChars ',' (body.dropWhile (· ≠ ' '))).map fun f => scriptNumber (trimChars f)) with
  | none => none
  | some args => scriptCommand (body.takeWhile (· ≠ ' ')) args

/-- One line: a comment from `;` on is dropped, "a line is prefixed by the issuer" as in `i1:`, issuer 1 if it is not.
`some none` is a line without a command (R61). -/
def scriptLine (cs : List Char) : Option (Option ScriptLine) :=
  let body := trimChars (cs.takeWhile (· ≠ ';'))
  if body = [] then some none
  else
    match splitChars ':' body with
    | [stmt] => (scriptStatement stmt).map fun i => some ⟨1, i⟩
    | ['i' :: n, stmt] =>
      match scriptNumber n, scriptStatement stmt with
      | some j, some i => if 1 ≤ j then some (some ⟨j, i⟩) else none
      | _, _ => none
    | _ => none

/-- A whole script, one command a line (R61). -/
def parseScript (lines : List (List Char)) : Option (List ScriptLine) :=
  (allSome (lines.map scriptLine)).map fun ls => ls.filterMap id

/-- The words issuer `j` presents, in script order (R122). -/
def wordsFor (j : Nat) (ls : List ScriptLine) : List CommandWord :=
  ls.filterMap fun l => if l.issuer = j then encode l.command else none

/-- The start of a run (R122): reset, with each of `n` issuers holding its script. DESIGN CHOICE (log 32): a line that
names an issuer above `n` is no issuer's, and its command is never presented; the spec does not say what becomes of it. -/
def State.startOfRun (n : Nat) (params : Params) (ls : List ScriptLine) : State :=
  (State.resetFor n params).setIssuers ((List.range n).map fun j => Issuer.start (wordsFor (j + 1) ls))

/-- `digits()` at the command port: "the twelve commands `DIGITS 0` to `DIGITS 11`" (R63). -/
def digitsCall : List Instr := (List.range Config.tableSize).map fun i => .digits (BitVec.ofNat 8 i)

end Sys2Proof.Machine
end

