-- ==== Sys2Proof/Safety.lean ====
section
/-! DEFINITION. What counts as a good state and a good run: the invariant every step keeps, the end of a run
(spec/70_reset_and_hazards.md R122) and the fairness it may be asked for (R131). -/

namespace Sys2Proof.Machine

/-- `n` steps of the machine, stopping at the first fault or refusal: the host's run of `core`, on `State`. -/
def run (n : Nat) (s : State) : Result := Host.Core.run core n s

/-- The cursor `SEQ[j]`, if there is an issuer `j` (R16). -/
def State.seqAt (s : State) (j : Nat) : Option Cursor := (s.issuers[j]?).map (·.seq)

/-- The `Issue` transition of the presenting issuer is enabled: `SEQ[i] = Idle and FAULT = 0` (R16). -/
abbrev State.canIssue (s : State) : Prop := s.fault = .none ∧ s.seqAt s.active = some .idle

/-- The pin registers hold these pins. -/
abbrev State.hasPins (s : State) (d c l : PinId) : Prop :=
  s.pinData = .pin d ∧ s.pinClock = .pin c ∧ s.pinLatch = .pin l

/-- The next `n` turns are issuer `j`'s, none of another issuer in between (R35, R43). -/
abbrev State.turnsOf (s : State) (j n : Nat) (rest : List Turn) : Prop :=
  s.schedule = List.replicate n (.issuer j) ++ rest

/-- Whether the next turn is Reset (R120). -/
def State.resetNext (s : State) : Bool :=
  match s.schedule with
  | .reset :: _ => true
  | _ => false

/-- All three pin registers hold a pin identifier. -/
def State.pinsAssigned (s : State) : Bool := s.pinData != .x && s.pinClock != .x && s.pinLatch != .x

/-- What a cursor may be in a run (R12, R16, R88): its index is one of its command's; an INITIALISE past its first
micro-operation has assigned the pins; a WRITEDIGIT runs only in the initialised state, and its address byte is
`OneHot(q)` of a position in contract. -/
def State.cursorOk (s : State) : Cursor → Bool
  | .idle => true
  | .run (.initialise d c l dv us) k =>
    decide (k < (microOpsOf (.initialise d c l dv us)).length) && (k == 0 || s.pinsAssigned)
  | .run (.writeDigit f) k =>
    decide (k < (microOpsOf (.writeDigit f)).length) && s.init &&
      (List.range Config.nDigits).any fun q => addrByte f == oneHot (BitVec.ofNat 8 q)

/-- Whether the fault record fits the fault code (R101). -/
def State.recordOk (s : State) : Bool :=
  match s.fault, s.faultInfo with
  | .none, .none => true
  | .notInitialised, .none => true
  | .positionRange, .position p => !positionInRange p
  | .illegalCommand, .word w =>
    match decode w with
    | .ok _ => false
    | .error _ => true
  | _, _ => false

/-- The invariant of the machine: the lines are in canonical form, the wired pins are distinct (R33), the initialised
state has its pins (R12), every cursor is one a run can reach, and the fault record fits. -/
def State.inv (s : State) : Bool :=
  s.gpio.wf && s.params.wires.distinct && (!s.init || s.pinsAssigned) &&
    s.issuers.all (fun i => s.cursorOk i.seq) && s.recordOk

/-- "The run has ended when every script is exhausted, every cursor is `Idle` and `FAULT = 0`" (R122). -/
def State.ended (s : State) : Bool :=
  s.issuers.all (fun i => i.seq == .idle && i.script.isEmpty) && s.fault == .none

/-- The `Step` transition of issuer `j` is enabled: `SEQ[j] = Run(c, k)` and `FAULT = 0` (R16). -/
abbrev State.stepEnabled (s : State) (j : Nat) : Prop := s.fault = .none ∧ ∃ c k, s.seqAt j = some (.run c k)

/-- From `s` to `t` issuer `j`'s `Step` was taken: not Reset, and its cursor has moved on by its micro-operation (R16). -/
abbrev State.stepTaken (s t : State) (j : Nat) : Prop :=
  s.resetNext = false ∧ ∃ c k, s.seqAt j = some (.run c k) ∧ t.seqAt j = some (Cursor.after c k)

/-- A run that goes on without end; a finished one stays as it is (log 5). A run that halts for good is none (R108). -/
def EndlessRun (r : Nat → State) : Prop := ∀ n, step (r n) = .next (r (n + 1))

/-- "progress of each is assumed only in the weak sense that an enabled `Step` is eventually taken; nothing bounds when"
(R131, D18): an issuer whose `Step` stays enabled takes it at some time. It is a property of a run and a premise of the
claims that need it (log 19). -/
def WeaklyFair (r : Nat → State) : Prop :=
  ∀ j n, (∀ m, n ≤ m → (r m).stepEnabled j) → ∃ m, n ≤ m ∧ (r m).stepTaken (r (m + 1)) j

/-- The three roles name the pins the chain is wired to: "`PIN_x = WIRE_x`" (R121). -/
abbrev State.wired (s : State) : Prop := s.hasPins s.params.wires.data s.params.wires.clock s.params.wires.latch

/-- A pin whose line is an output at level 0, the idle level (R54). -/
abbrev State.lineLow (s : State) (p : PinId) : Prop := s.gpio.line p = ⟨.output, .low⟩

/-- A write can start as R35 says: roles as wired, the wired pins distinct, the clock and latch lines at 0, and the
data line an output, as a completed INITIALISE leaves it. -/
abbrev State.chainReady (s : State) : Prop :=
  s.wired ∧ s.params.wires.distinct = true ∧ s.lineLow s.params.wires.clock ∧ s.lineLow s.params.wires.latch ∧
    (s.gpio.line s.params.wires.data).mode = .output

/-- The block's registers, the parameters and the fault record of `t` are those of `s`. -/
structure State.SameRegisters (s t : State) : Prop where
  init : t.init = s.init
  pinData : t.pinData = s.pinData
  pinClock : t.pinClock = s.pinClock
  pinLatch : t.pinLatch = s.pinLatch
  pulseDelay : t.pulseDelay = s.pulseDelay
  fault : t.fault = s.fault
  faultInfo : t.faultInfo = s.faultInfo
  params : t.params = s.params
  active : t.active = s.active
  fresh : t.fresh = s.fresh

end Sys2Proof.Machine
end

