-- ==== Sys2Proof/Certificates/Slice0/Obligations.lean ====
section
/-! DEFINITION. The statements about the model for the provers, each from a rule R<n> of spec/ or from the sections it
rests on. A statement about a whole command runs the machine's own steps (`run`); that no other issuer
moves in between is said by the schedule (`State.turnsOf`). -/

open Sys2Proof Sys2Proof.Machine

-- ==== Encodings (R50 to R60) ====

/-- R55 to R58, R60: every command has a word, and decoding it gives the command back with every operand. -/
def Obligations.DecodeOfEncodeIsTheCommand : Prop :=
  ∀ i : Instr, i.wf = true → ∃ w, encode i = some w ∧ decode w = .ok i

/-- R59: each legal word has one meaning, and encoding that meaning gives the word back. -/
def Obligations.EncodeOfDecodeIsTheWord : Prop :=
  ∀ (w : CommandWord) (i : Instr), decode w = .ok i → encode i = some w

/-- R56: the words of format I are those with the row's match under its mask, and each decodes to its fields. -/
def Obligations.FormatIWordsDecodeToTheirFields : Prop :=
  ∀ w : CommandWord,
    (w &&& 0xF700000000000000#64 = 0x1000000000000000#64 →
      decode w = .ok (.initialise (w.extractLsb' 48 8) (w.extractLsb' 40 8) (w.extractLsb' 32 8)
        (w.getLsbD 59) (w.extractLsb' 0 32))) ∧
    (w &&& 0xF700000000000000#64 ≠ 0x1000000000000000#64 → ∀ d c l dv us, decode w ≠ .ok (.initialise d c l dv us))

/-- R57: the words of format W are those with the row's match under its mask, and each decodes to its fields, positions
above 7 included. -/
def Obligations.FormatWWordsDecodeToTheirFields : Prop :=
  ∀ w : CommandWord,
    (w &&& 0xFFFFFFFFFFFF0000#64 = 0x2000000000000000#64 →
      decode w = .ok (.writeDigit (w.extractLsb' 8 8) (w.extractLsb' 0 8))) ∧
    (w &&& 0xFFFFFFFFFFFF0000#64 ≠ 0x2000000000000000#64 → ∀ p pat, decode w ≠ .ok (.writeDigit p pat))

/-- R58: the words of format D are those with the row's match under its mask, and each decodes to its index, indices
above 11 included. -/
def Obligations.FormatDWordsDecodeToTheirFields : Prop :=
  ∀ w : CommandWord,
    (w &&& 0xFFFFFFFFFFFFFF00#64 = 0x3000000000000000#64 → decode w = .ok (.digits (w.extractLsb' 0 8))) ∧
    (w &&& 0xFFFFFFFFFFFFFF00#64 ≠ 0x3000000000000000#64 → ∀ i, decode w ≠ .ok (.digits i))

/-- R59: a word is illegal exactly when its `op` is 0x0 or 0x4 to 0xF, or a reserved field of its format is not zero;
no word decodes to an internal routine (R62). -/
def Obligations.IllegalWordsAreExactlyTheReservedOnes : Prop :=
  ∀ w : CommandWord,
    ((∃ e, decode w = .error e) ↔
      ((w.extractLsb' 60 4 = 0#4 ∨ 4#4 ≤ w.extractLsb' 60 4) ∨
        (w.extractLsb' 60 4 = 1#4 ∧ w.extractLsb' 56 3 ≠ 0#3) ∨
        (w.extractLsb' 60 4 = 2#4 ∧ w.extractLsb' 16 44 ≠ 0#44) ∨
        (w.extractLsb' 60 4 = 3#4 ∧ w.extractLsb' 8 52 ≠ 0#52))) ∧
    (∀ i, decode w = .ok i → i.wf = true)

/-- The words of spec/95_test_vectors.md V-E2, V-E7, V-E11, V-E12 and V-E16, read by the decoder. -/
def Obligations.VectorWordsDecode : Prop :=
  decode 0x1809080700000032#64 = .ok (.initialise 9 8 7 true 50) ∧
    decode 0x20000000000003A4#64 = .ok (.writeDigit 3 0xA4) ∧
    decode 0x300000000000000A#64 = .ok (.digits 10) ∧
    decode 0x0000000000000000#64 = .error (.reservedOp 0) ∧
    decode 0x300000000000010A#64 = .error (.reservedField 3)

/-- R52, R88: the address byte of each position has exactly one bit set, bit `position`. -/
def Obligations.AddressByteIsOneHot : Prop :=
  ∀ p : Byte, p.toNat < 8 → ∀ k : Nat, (oneHot p).getLsbD k = decide (k = p.toNat)

-- ==== Reset (R120) ====

/-- R11 to R14, R16, R18, R20, R33, R120: the state after reset, for any number of issuers and any parameters. -/
def Obligations.ResetLeavesTheStatedValues : Prop :=
  ∀ (n : Nat) (ps : Params),
    let s := State.resetFor n ps
    s.init = false ∧ s.pinData = .x ∧ s.pinClock = .x ∧ s.pinLatch = .x ∧ s.pulseDelay.toNat = 150 ∧
      s.fault = .none ∧ s.issuers.length = n ∧ (∀ j c, s.seqAt j = some c → c = .idle) ∧
      (∀ p : PinId, s.gpio.line p = ⟨.unconfigured, .x⟩) ∧
      (∀ (i : Nat) (h : i < 16), s.chain.sr[i] = .x ∧ s.chain.out[i] = .x) ∧ s.trace = []

/-- R120, R109: Reset is enabled in every state, halted or not, and as one step puts every element of state at its reset
value, discards every command in flight, and leaves `TABLE` and the wiring alone. The model's own: that the scripts and
the rest of the schedule stay (log 15, DESIGN CHOICE), that the returned bytes go (log 11, DESIGN CHOICE), and that the
fault record is none (log 20, DEDUCED). -/
def Obligations.ResetIsAlwaysEnabled : Prop :=
  ∀ (s : State) (rest : List Turn), s.schedule = .reset :: rest →
    ∃ t, step s = .next t ∧
      t.init = false ∧ t.pinData = .x ∧ t.pinClock = .x ∧ t.pinLatch = .x ∧ t.pulseDelay.toNat = 150 ∧
      t.fault = .none ∧ t.faultInfo = .none ∧
      t.issuers = s.issuers.map (fun i => { seq := .idle, script := i.script, returned := [] }) ∧
      (∀ p : PinId, t.gpio.line p = ⟨.unconfigured, .x⟩) ∧
      (∀ (i : Nat) (h : i < 16), t.chain.sr[i] = .x ∧ t.chain.out[i] = .x) ∧
      t.trace = [] ∧ t.params = s.params ∧ t.schedule = rest

-- ==== The transitions (R16) ====

/-- R16 `Issue`: when it is issuer `j`'s turn, its cursor is `Idle`, nothing has faulted and its next word decodes, the
step is `exec` of the decoded command by that issuer, the turn and the word being taken. -/
def Obligations.StepRunsTheDecodedCommand : Prop :=
  ∀ (s : State) (j : Nat) (rest : List Turn) (iss : Issuer) (w : CommandWord) (ws : List CommandWord) (i : Instr),
    s.schedule = .issuer j :: rest → s.fault = .none → s.issuers[j]? = some iss → iss.seq = .idle →
    iss.script = w :: ws → decode w = .ok i →
      step s = exec i { s with
        schedule := rest
        active := j
        issuers := s.issuers.modify j fun x => { x with script := ws } }

/-- The word placed by `withFetchWord` is the one the next step issues. -/
def Obligations.PlacedWordIsIssuedNext : Prop :=
  ∀ (s : State) (w : CommandWord) (i : Instr), s.fault = .none → s.issuers ≠ [] → decode w = .ok i →
    step (s.withFetchWord 64 w.toNat) =
      exec i { s with
        active := 0
        issuers := s.issuers.modify 0 fun x => { x with seq := .idle } }

/-- R107, R104, R101: an illegal word raises IllegalCommand in either state of `INIT`: a next state in which `FAULT` is 3
and nothing else of the block has changed. The model's own: the turn and the word taken (log 1), the issuer named
(log 7), and the fault record, which holds the word (log 20, DEDUCED). -/
def Obligations.IllegalWordRaisesIllegalCommand : Prop :=
  ∀ (s : State) (j : Nat) (rest : List Turn) (iss : Issuer) (w : CommandWord) (ws : List CommandWord) (e : Illegal),
    s.schedule = .issuer j :: rest → s.fault = .none → s.issuers[j]? = some iss → iss.seq = .idle →
    iss.script = w :: ws → decode w = .error e →
      step s = .next { s with
        fault := .illegalCommand
        faultInfo := .word w
        schedule := rest
        active := j
        issuers := s.issuers.modify j fun x => { x with script := ws } } ∧
      FaultCode.illegalCommand.toNat = 3

/-- R16 `Step`: a `Run` cursor executes its next micro-operation and moves on by one, or to `Idle` after the last. -/
def Obligations.StepExecutesOneMicroOperation : Prop :=
  ∀ (s t : State) (j k : Nat) (rest : List Turn) (c : Command) (u : MicroOp),
    s.schedule = .issuer j :: rest → s.fault = .none → s.seqAt j = some (.run c k) →
    (microOpsOf c)[k]? = some u → execMicroOp u { s with schedule := rest } = .next t →
      step s = .next { t with
        issuers := t.issuers.modify j fun x =>
          { x with seq := if k + 1 = (microOpsOf c).length then .idle else .run c (k + 1) } }

/-- R108, U17: while `FAULT` is non-zero no transition but Reset is enabled, and no operation is accepted, DIGITS
included. -/
def Obligations.HaltedBlockIsStuckUntilReset : Prop :=
  ∀ s : State, s.fault ≠ .none →
    (s.resetNext = false → step s = .fault (.halted s.fault)) ∧ (∀ i, exec i s = .fault (.halted s.fault))

/-- The only fault of a step is the stuck state of a halted block whose next turn is not Reset (R108). -/
def Obligations.StepFaultsOnlyWhenHalted : Prop :=
  ∀ (s : State) (r : Fault), step s = .fault r → r = .halted s.fault ∧ s.fault ≠ .none ∧ s.resetNext = false

/-- R16, R125: an issuer whose own cursor is `Run` cannot issue; its command is not accepted. -/
def Obligations.BusyIssuerCannotIssue : Prop :=
  ∀ (s : State) (i : Instr) (c : Command) (k : Nat), s.fault = .none → s.seqAt s.active = some (.run c k) →
    i.wf = true → exec i s = .refused .issuerBusy

/-- R16: with `N_ISSUERS = 1` the machine is deterministic given the command sequence, "but for the free byte that
DIGITS returns for an index above 11": with one issuer and nothing scheduled, the step is that issuer's transition, or
nothing where it has none (log 5), and unless the command it issues is such a DIGITS, the step is the same whatever free
values are still to come. That no Reset comes with nothing scheduled is the model's choice (log 16, DESIGN CHOICE). -/
def Obligations.SingleIssuerNeedsNoSchedule : Prop :=
  ∀ (s : State) (i : Issuer), s.schedule = [] → s.issuers = [i] → s.fault = .none →
    (i.ready = true → step s = advance 0 s) ∧ (i.ready = false → step s = .next s) ∧
    ((∀ w ws index, i.seq = .idle → i.script = w :: ws → decode w = .ok (.digits index) → index.toNat ≤ 11) →
      ∀ n, step { s with fresh := n } = andThen (step s) fun t => .next { t with fresh := n })

/-- R42: with nothing scheduled the step is the transition of one of the issuers that have one; with none it is idle. The
model's own, each a DESIGN CHOICE: the free value that chooses (log 3), that the state stays with no issuer ready
(log 5), and that no Reset comes with nothing scheduled, though R16 always enables it (log 16). -/
def Obligations.UnscheduledStepIsSomeReadyIssuers : Prop :=
  ∀ s : State, s.schedule = [] → s.fault = .none →
    ((∀ i ∈ s.issuers, i.ready = false) ∧ step s = .next s) ∨
    (∃ j i, s.issuers[j]? = some i ∧ i.ready = true ∧ (step s = advance j s ∨ step s = advance j s.tick))

/-- R122: a finished run stays as it is, whatever issuers' turns are still scheduled. -/
def Obligations.EndedRunStaysEnded : Prop :=
  ∀ s : State, s.ended = true →
    (s.schedule = [] → step s = .next s) ∧
    (∀ j rest, s.schedule = .issuer j :: rest → step s = .next { s with schedule := rest })

-- ==== The micro-operations (R19) and the chain (R34) ====

/-- R19 `CFG`: the line named by the role's register becomes an output, its level unchanged; one event; nothing else. -/
def Obligations.ConfigureMakesAnOutput : Prop :=
  ∀ (s : State) (r : Role) (p : PinId), s.pinReg r = .pin p →
    ∃ t, execMicroOp (.cfg r) s = .next t ∧
      t.gpio.line p = ⟨.output, (s.gpio.line p).level⟩ ∧ (∀ q, q ≠ p → t.gpio.line q = s.gpio.line q) ∧
      t.trace = s.trace ++ [.cfg p] ∧ s.SameRegisters t ∧
      t.chain = s.chain ∧ t.issuers = s.issuers ∧ t.schedule = s.schedule

/-- R19 `DRV`: the line takes the bit if it is an output and level X if it was never configured; every drive is one
event, also when the level does not change; no other line and no register changes. -/
def Obligations.DriveSetsTheLineAndIsTraced : Prop :=
  ∀ (s : State) (r : Role) (p : PinId) (b : Bool), s.gpio.wf = true → s.pinReg r = .pin p →
    ∃ t, execMicroOp (.drv r b) s = .next t ∧
      t.gpio.line p =
        (if (s.gpio.line p).mode = .output then ⟨.output, if b then .high else .low⟩ else ⟨.unconfigured, .x⟩) ∧
      (∀ q, q ≠ p → t.gpio.line q = s.gpio.line q) ∧
      t.trace = s.trace ++ [.drv p b] ∧ s.SameRegisters t ∧ t.issuers = s.issuers ∧ t.schedule = s.schedule

/-- R19, R111 `WAIT`: one event that carries the delay register's value now (R13), and no other change. -/
def Obligations.WaitOnlyRecordsTheDelay : Prop :=
  ∀ s : State, execMicroOp .wait s = .next { s with trace := s.trace ++ [.wait s.pulseDelay] }

/-- R19, U7: a `CFG` or `DRV` whose pin register holds X is refused, and so are PULSE on that role (R75) and SHIFTOUT with
its data or its clock role (R76) unassigned. That a routine is executed by itself, where no WRITEDIGIT has checked
`INIT` (R62, R79), is the model's (log 6, DESIGN CHOICE). -/
def Obligations.DriveOfAnUnassignedPinIsRefused : Prop :=
  ∀ (s : State) (r : Role) (b : Bool), s.pinReg r = .x →
    execMicroOp (.cfg r) s = .refused .pinRegisterX ∧ execMicroOp (.drv r b) s = .refused .pinRegisterX ∧
    (s.fault = .none → ∀ l, roleOfLine l = r → exec (.pulse l) s = .refused .pinRegisterX) ∧
    (s.fault = .none → r = .data ∨ r = .clock → ∀ byte, exec (.shiftOut byte) s = .refused .pinRegisterX)

/-- R34: the chain's reaction to a drive of pin `p`, with the line's level before and after: a clock rise from 0 shifts
the wired data level in at cell 0, a latch rise from 0 copies all cells, a rise from X makes cells X, nothing else acts. -/
def Obligations.ChainReactsToRisingEdges : Prop :=
  ∀ (s t : State) (r : Role) (p : PinId) (b : Bool), s.params.wires.distinct = true → s.pinReg r = .pin p →
    execMicroOp (.drv r b) s = .next t →
    let old := (s.gpio.line p).level
    let new := (t.gpio.line p).level
    (t.chain.sr ≠ s.chain.sr → p = s.params.wires.clock ∧ new = .high) ∧
    (t.chain.out ≠ s.chain.out → p = s.params.wires.latch ∧ new = .high) ∧
    (p = s.params.wires.clock → old = .low → new = .high →
      t.chain.sr[0] = (t.gpio.line s.params.wires.data).level ∧
      ∀ (i : Nat) (h : i + 1 < 16), t.chain.sr[i + 1] = s.chain.sr[i]'(Nat.lt_of_succ_lt h)) ∧
    (p = s.params.wires.clock → old = .x → new = .high → ∀ (i : Nat) (h : i < 16), t.chain.sr[i] = .x) ∧
    (p = s.params.wires.latch → old = .low → new = .high → t.chain.out = s.chain.sr) ∧
    (p = s.params.wires.latch → old = .x → new = .high → ∀ (i : Nat) (h : i < 16), t.chain.out[i] = .x) ∧
    (old = .high → t.chain = s.chain)

-- ==== INITIALISE (R85, R86) ====

/-- R16, R85: INITIALISE is accepted in either state of `INIT`; issuing it latches its operands in the issuer's cursor
and changes nothing else. -/
def Obligations.InitialiseIssueLatchesItsOperands : Prop :=
  ∀ (s : State) (d c l : PinId) (dv : Bool) (us : Delay), s.canIssue →
    exec (.initialise d c l dv us) s = .next { s with
      issuers := s.issuers.modify s.active fun x => { x with seq := .run (.initialise d c l dv us) 0 } }

/-- R85, R86: INITIALISE issued and given its nine steps: the three pin registers, `INIT`, and `PULSE_DELAY` exactly when
the delay operand is present, are written; the three named lines are outputs at 0 and no other line changes, those of
the old pins included; the six events are appended; the chain and everything else stay; the issuer is `Idle` again. -/
def Obligations.InitialiseCompletesInNineSteps : Prop :=
  ∀ (s : State) (rest : List Turn) (d c l : PinId) (dv : Bool) (us : Delay), s.canIssue →
    s.turnsOf s.active 9 rest →
    ∃ u t, exec (.initialise d c l dv us) s = .next u ∧ run 9 u = .next t ∧
      t.init = true ∧ t.hasPins d c l ∧ t.pulseDelay = (if dv then us else s.pulseDelay) ∧
      t.trace = s.trace ++ [.cfg d, .cfg c, .cfg l, .drv d false, .drv c false, .drv l false] ∧
      (∀ p, t.gpio.line p = if p = d ∨ p = c ∨ p = l then ⟨.output, .low⟩ else s.gpio.line p) ∧
      t.chain = s.chain ∧ t.fault = .none ∧ t.faultInfo = s.faultInfo ∧ t.params = s.params ∧
      t.issuers = s.issuers ∧ t.schedule = rest ∧ t.active = s.active ∧ t.fresh = s.fresh

/-- R7, R11, R12, R13: outside Reset, a step changes the pin registers only as micro-operation 0 of an INITIALISE in
flight, `PULSE_DELAY` only as micro-operation 7 of one with its delay operand present, and `INIT` only from 0 to 1, as
micro-operation 8. The issuer named is the one that moves in the step: its cursor is past that micro-operation after
it. -/
def Obligations.RegistersAreWrittenOnlyByInitialise : Prop :=
  ∀ s t : State, step s = .next t → s.resetNext = false →
    ((t.pinData ≠ s.pinData ∨ t.pinClock ≠ s.pinClock ∨ t.pinLatch ≠ s.pinLatch) →
      ∃ j d c l dv us, s.seqAt j = some (.run (.initialise d c l dv us) 0) ∧
        t.seqAt j = some (.run (.initialise d c l dv us) 1) ∧ t.hasPins d c l) ∧
    (t.pulseDelay ≠ s.pulseDelay →
      ∃ j d c l us, s.seqAt j = some (.run (.initialise d c l true us) 7) ∧
        t.seqAt j = some (.run (.initialise d c l true us) 8) ∧ t.pulseDelay = us) ∧
    (t.init ≠ s.init → t.init = true ∧
      ∃ j d c l dv us, s.seqAt j = some (.run (.initialise d c l dv us) 8) ∧ t.seqAt j = some .idle)

-- ==== WRITEDIGIT (R87 to R91) ====

/-- R16, R87: a WRITEDIGIT in contract in the initialised state is accepted: its frame `{1 << position, pattern}` is
latched in the issuer's cursor, and nothing else changes. -/
def Obligations.WriteDigitIssueLatchesItsFrame : Prop :=
  ∀ (s : State) (p pat : Byte), s.canIssue → s.init = true → p.toNat < 8 →
    exec (.writeDigit p pat) s = .next { s with
      issuers := s.issuers.modify s.active fun x =>
        { x with seq := .run (.writeDigit ((1#8 <<< p.toNat) ++ pat)) 0 } }

/-- R105, R103, R104, R101: WRITEDIGIT while `INIT` is 0 raises NotInitialised, code 1, whatever its position; `FAULT` is
written and nothing else of the block changes. The fault record, none, is the model's (log 20, DEDUCED). -/
def Obligations.WriteBeforeInitialiseRaisesNotInitialised : Prop :=
  ∀ (s : State) (p pat : Byte), s.canIssue → s.init = false →
    exec (.writeDigit p pat) s = .next { s with fault := .notInitialised, faultInfo := .none } ∧
      FaultCode.notInitialised.toNat = 1

/-- R106, R103, R104, R101: WRITEDIGIT with a position from 8 to 255 in the initialised state raises PositionRange,
code 2; nothing is sent and nothing else of the block changes. The fault record, the position, is the model's (log 20,
DEDUCED). -/
def Obligations.PositionAboveSevenRaisesPositionRange : Prop :=
  ∀ (s : State) (p pat : Byte), s.canIssue → s.init = true → 8 ≤ p.toNat →
    exec (.writeDigit p pat) s = .next { s with fault := .positionRange, faultInfo := .position p } ∧
      FaultCode.positionRange.toNat = 2

/-- R87, R41, R90: a WRITEDIGIT issued and given its 67 steps appends exactly its 67 events, as R87 writes them out, and
changes no register, no line but the three roles', and no issuer; the issuer is `Idle` again. -/
def Obligations.WriteDigitSendsItsSixtySevenEvents : Prop :=
  ∀ (s : State) (rest : List Turn) (p pat : Byte) (d c l : PinId), s.canIssue → s.init = true → p.toNat < 8 →
    s.hasPins d c l → s.turnsOf s.active 67 rest →
    ∃ u t, exec (.writeDigit p pat) s = .next u ∧ run 67 u = .next t ∧
      t.trace = s.trace ++
        ((List.range 16).flatMap fun j =>
          [.drv d (((1#8 <<< p.toNat) ++ pat).getLsbD (15 - j)), .drv c true, .wait s.pulseDelay, .drv c false]) ++
        [.drv l true, .wait s.pulseDelay, .drv l false] ∧
      s.SameRegisters t ∧ (∀ q, q ≠ d → q ≠ c → q ≠ l → t.gpio.line q = s.gpio.line q) ∧
      t.issuers = s.issuers ∧ t.schedule = rest

/-- R21, R87: after a complete WRITEDIGIT whose three roles are distinct configured lines, the clock and latch lines are
at 0 and the data line keeps the pattern's last bit. -/
def Obligations.WriteDigitLeavesClockAndLatchLow : Prop :=
  ∀ (s : State) (rest : List Turn) (p pat : Byte) (d c l : PinId), s.canIssue → s.init = true → p.toNat < 8 →
    s.hasPins d c l → d ≠ c → d ≠ l → c ≠ l → (s.gpio.line d).mode = .output → (s.gpio.line c).mode = .output →
    (s.gpio.line l).mode = .output → s.turnsOf s.active 67 rest →
    ∃ u t, exec (.writeDigit p pat) s = .next u ∧ run 67 u = .next t ∧
      t.gpio.line c = ⟨.output, .low⟩ ∧ t.gpio.line l = ⟨.output, .low⟩ ∧
      t.gpio.line d = ⟨.output, if pat.getLsbD 0 then .high else .low⟩

/-- R35: after a complete, uninterrupted WRITEDIGIT with the roles as wired and the clock and latch lines at 0, `SR` and
`OUT` both hold `{OneHot(p), pat}`, whatever they held before. The premise that the data line is an output is the
model's reading of R35 (log 13, DEDUCED: a data line never configured would shift X in, R19, R34). -/
def Obligations.CompleteWriteLoadsTheChain : Prop :=
  ∀ (s : State) (rest : List Turn) (p pat : Byte), s.canIssue → s.init = true → p.toNat < 8 → s.chainReady →
    s.turnsOf s.active 67 rest →
    ∃ u t, exec (.writeDigit p pat) s = .next u ∧ run 67 u = .next t ∧
      t.chain.sr = t.chain.out ∧
      ∀ (i : Nat) (h : i < 16), t.chain.out[i] = if ((1#8 <<< p.toNat) ++ pat).getLsbD i then .high else .low

/-- R21, R38, R44: no partial update is visible: through the first 64 of a WRITEDIGIT's steps, before its latch pulse,
`OUT` is what it was, as long as neither the data nor the clock role is on the wired latch pin. -/
def Obligations.NothingIsVisibleBeforeTheLatchPulse : Prop :=
  ∀ (s : State) (rest : List Turn) (p pat : Byte) (d c l : PinId) (n : Nat), s.canIssue → s.init = true →
    p.toNat < 8 → s.hasPins d c l → d ≠ s.params.wires.latch → c ≠ s.params.wires.latch → n ≤ 64 →
    s.turnsOf s.active 67 rest →
    ∃ u t, exec (.writeDigit p pat) s = .next u ∧ run n u = .next t ∧ t.chain.out = s.chain.out

/-- R121: a WRITEDIGIT whose roles name no pin the chain is clocked or latched by runs all the same, and the display
sees nothing. -/
def Obligations.UnwiredWriteLeavesTheDisplay : Prop :=
  ∀ (s : State) (rest : List Turn) (p pat : Byte) (d c l : PinId), s.canIssue → s.init = true → p.toNat < 8 →
    s.hasPins d c l →
    (∀ q, q = d ∨ q = c ∨ q = l → q ≠ s.params.wires.clock ∧ q ≠ s.params.wires.latch) →
    s.turnsOf s.active 67 rest →
    ∃ u t, exec (.writeDigit p pat) s = .next u ∧ run 67 u = .next t ∧ t.chain = s.chain ∧ t.fault = .none

/-- R89, R91, R132: the events of a complete WRITEDIGIT hold 17 waits and 17 pulse events, 16 on the clock line and one
on the latch line, their nominal time is 17 delays, and the data line's first eight levels spell the address byte. -/
def Obligations.WriteDigitEmitsSeventeenPulses : Prop :=
  ∀ (s : State) (rest : List Turn) (p pat : Byte) (d c l : PinId), s.canIssue → s.init = true → p.toNat < 8 →
    s.hasPins d c l → d ≠ c → d ≠ l → c ≠ l → s.turnsOf s.active 67 rest →
    ∃ u t es, exec (.writeDigit p pat) s = .next u ∧ run 67 u = .next t ∧ t.trace = s.trace ++ es ∧
      es.length = 67 ∧ (waitsOf es).length = Config.pulsesPerWrite ∧ pulsesOn c es = 16 ∧ pulsesOn l es = 1 ∧
      nominalTime es = 17 * s.pulseDelay.toNat ∧ nominalTime es = nominalWriteTime s.pulseDelay ∧
      (drivesOn d es).length = 16 ∧
      (drivesOn d es).take 8 = byteBitsMsbFirst (1#8 <<< p.toNat) ∧
      (drivesOn d es).drop 8 = byteBitsMsbFirst pat

/-- R22, R39: the same WRITEDIGIT twice in a row appends the same events twice, and, with the roles as wired and the lines
ready, leaves `SR` and `OUT` as one write does. R39 writes no such premise; it is R35's, with the data line an output
besides (log 13, DEDUCED). -/
def Obligations.RepeatedWriteRepeatsItsEvents : Prop :=
  ∀ (s : State) (rest : List Turn) (iss : Issuer) (j : Nat) (w : CommandWord) (ws : List CommandWord) (p pat : Byte),
    s.fault = .none → s.issuers[j]? = some iss → iss.seq = .idle → iss.script = w :: w :: ws →
    decode w = .ok (.writeDigit p pat) → s.init = true → p.toNat < 8 → s.pinsAssigned = true → s.turnsOf j 136 rest →
    ∃ t t' es, run 68 s = .next t ∧ run 68 t = .next t' ∧ es.length = 67 ∧
      t.trace = s.trace ++ es ∧ t'.trace = t.trace ++ es ∧ (s.chainReady → t'.chain = t.chain)

/-- R3, R87: WRITEDIGIT step by step is SHIFTOUT of the address byte, SHIFTOUT of the pattern and PULSE of the latch
line, each run as the routine by itself (log 6, DESIGN CHOICE), in that order; only the turns taken tell the two apart. -/
def Obligations.WriteDigitIsShiftOutTwiceThenLatchPulse : Prop :=
  ∀ (s : State) (rest : List Turn) (p pat : Byte), s.canIssue → s.init = true → p.toNat < 8 →
    s.pinsAssigned = true → s.turnsOf s.active 67 rest →
    ∃ u a b t, exec (.writeDigit p pat) s = .next u ∧
      exec (.shiftOut (1#8 <<< p.toNat)) s = .next a ∧ exec (.shiftOut pat) a = .next b ∧
      exec (.pulse .latch) b = .next t ∧ run 67 u = .next { t with schedule := rest }

/-- R36: with `{OneHot(p), pat}` in the output latch, segment `s` of panel `q` is lit exactly when `q` is the written
panel and the pattern's bit `s` is 0, and every other panel is dark, in the sense of not selected (log 33, DESIGN CHOICE). -/
def Obligations.OnlyTheWrittenPanelIsLit : Prop :=
  ∀ (p pat : Byte) (q s : Fin 8), p.toNat < 8 →
    segmentLit (Cells.ofFrame (frameOf p pat)) q s = (decide (q.val = p.toNat) && !pat.getLsbD s.val) ∧
    panelDark (Cells.ofFrame (frameOf p pat)) q = !decide (q.val = p.toNat)

/-- R73, R36, R53: with the bitwise AND of two patterns written, a segment of a panel is lit exactly when it is lit with
one of the two patterns written at the same position; and on the written panel a pattern lights the segments whose bits
are 0. -/
def Obligations.AndOfPatternsLightsTheUnion : Prop :=
  ∀ (p a b : Byte) (q s : Fin 8), p.toNat < 8 →
    segmentLit (Cells.ofFrame (frameOf p (a &&& b))) q s =
      (segmentLit (Cells.ofFrame (frameOf p a)) q s || segmentLit (Cells.ofFrame (frameOf p b)) q s) ∧
    (q.val = p.toNat → segmentLit (Cells.ofFrame (frameOf p a)) q s = patternLights a s ∧
      patternLights a s = !a.getLsbD s.val)

-- ==== DIGITS (R70 to R73) ====

/-- R71, R70: DIGITS of an index in contract completes at issue and returns the table's entry to the issuer, in either
state of `INIT`; nothing else changes. The entries 0, 10 and 11 are the document's. -/
def Obligations.DigitsReturnsTheTableEntry : Prop :=
  ∀ (s : State) (index : Byte), s.canIssue → index.toNat ≤ 11 →
    ∃ b, exec (.digits index) s = .next { s with
        issuers := s.issuers.modify s.active fun x => { x with returned := x.returned ++ [b] } } ∧
      (index = 0 → b = 0xC0) ∧ (index = 10 → b = 0x7F) ∧ (index = 11 → b = 0xFF) ∧
      (∀ k : Fin 9, index.toNat = k.val + 1 → b = s.params.numerals[k.val])

/-- R72: DIGITS with an index from 12 to 255 raises no fault, returns one byte, and changes no state of the block; the
byte is free (`Config.freeByte`), so nothing is said of its value. The record of returned bytes (log 11) and the counter
that free values are drawn with (log 9) are the model's, each a DESIGN CHOICE. -/
def Obligations.DigitsAboveElevenReturnsSomeByte : Prop :=
  ∀ (s : State) (index : Byte), s.canIssue → 12 ≤ index.toNat →
    ∃ b, exec (.digits index) s = .next { s with
      issuers := s.issuers.modify s.active fun x => { x with returned := x.returned ++ [b] }
      fresh := s.fresh + 1 }

/-- R63: the twelve commands of `digits()`, executed one after another, return the twelve entries in order and change
nothing else. -/
def Obligations.TwelveDigitsReturnTheTable : Prop :=
  ∀ s : State, s.canIssue →
    digitsCall.foldl (fun r i => andThen r (exec i)) (.next s) = .next { s with
      issuers := s.issuers.modify s.active fun x => { x with
        returned := x.returned ++ ([0xC0#8] ++ s.params.numerals.toList ++ [0x7F#8, 0xFF#8]) } }

/-- R15, R33: no step, Reset included, changes the table or the wiring. -/
def Obligations.ParametersNeverChange : Prop :=
  ∀ s t : State, step s = .next t → t.params = s.params

/-- R15, R73: only DIGITS reads the table: every other operation, and every micro-operation, does the same with any
other table. -/
def Obligations.OnlyDigitsReadsTheTable : Prop :=
  ∀ (s : State) (n : Vector Byte 9),
    let other := fun (x : State) => { x with params := { x.params with numerals := n } }
    (∀ i : Instr, (∀ index, i ≠ .digits index) → exec i (other s) = andThen (exec i s) fun t => .next (other t)) ∧
    (∀ u : MicroOp, execMicroOp u (other s) = andThen (execMicroOp u s) fun t => .next (other t))

-- ==== SHIFTOUT and PULSE (R75 to R79) ====

/-- R75: PULSE appends `Drv(q, 1), Wait(d), Drv(q, 0)` on the pin of its line with the delay register's value, leaves
that line at 0 if it is an output, and changes no register and no other line. -/
def Obligations.PulseDrivesHighWaitsDrivesLow : Prop :=
  ∀ (s : State) (line : PulseLine) (q : PinId), s.fault = .none → s.pinReg (roleOfLine line) = .pin q →
    ∃ t, exec (.pulse line) s = .next t ∧
      t.trace = s.trace ++ [.drv q true, .wait s.pulseDelay, .drv q false] ∧
      ((s.gpio.line q).mode = .output → t.gpio.line q = ⟨.output, .low⟩) ∧
      (∀ r, r ≠ q → t.gpio.line r = s.gpio.line r) ∧ s.SameRegisters t ∧
      t.issuers = s.issuers ∧ t.schedule = s.schedule

/-- R76: SHIFTOUT appends eight bit cells, bit 7 first, 32 events; the clock line ends at 0 and the data line at bit 0
where they are distinct outputs; no register and no other line changes, so the latch line is not touched. -/
def Obligations.ShiftOutSendsEightBitCells : Prop :=
  ∀ (s : State) (byte : Byte) (d c : PinId), s.fault = .none → s.pinData = .pin d → s.pinClock = .pin c →
    ∃ t, exec (.shiftOut byte) s = .next t ∧
      t.trace = s.trace ++ (List.range 8).flatMap (fun j =>
        [.drv d (byte.getLsbD (7 - j)), .drv c true, .wait s.pulseDelay, .drv c false]) ∧
      (d ≠ c → (s.gpio.line d).mode = .output → (s.gpio.line c).mode = .output →
        t.gpio.line c = ⟨.output, .low⟩ ∧ t.gpio.line d = ⟨.output, if byte.getLsbD 0 then .high else .low⟩) ∧
      (∀ r, r ≠ d → r ≠ c → t.gpio.line r = s.gpio.line r) ∧ s.SameRegisters t ∧
      t.issuers = s.issuers ∧ t.schedule = s.schedule

/-- R76, §8 of the source: with distinct data and clock pins, the levels SHIFTOUT drives on the data line are the byte
read left to right, eight of them, whatever the byte (with one pin for both roles ShiftOutSendsEightBitCells gives the
events). That it runs by itself is the model's form of the routine (log 6, DESIGN CHOICE). -/
def Obligations.ShiftOutDrivesMostSignificantBitFirst : Prop :=
  ∀ (s t : State) (byte : Byte) (d c : PinId), s.pinData = .pin d → s.pinClock = .pin c → d ≠ c →
    exec (.shiftOut byte) s = .next t →
    ∃ es, t.trace = s.trace ++ es ∧
      drivesOn d es = (List.range 8).map (fun j => byte.getLsbD (7 - j)) ∧ (waitsOf es).length = 8 ∧ es.length = 32

/-- R34, R76: SHIFTOUT with the roles as wired moves the low eight cells of `SR` up by eight and puts the byte below
them, bit `i` in cell `i`; `OUT` is not touched. That it runs by itself, no other issuer in between (R43), is the
model's form of the routine (log 6, DESIGN CHOICE), and the chain is the spec's reference model (log 13, PRESUMED). -/
def Obligations.ShiftOutShiftsTheByteIn : Prop :=
  ∀ (s : State) (byte : Byte), s.fault = .none → s.chainReady →
    ∃ t, exec (.shiftOut byte) s = .next t ∧ t.chain.out = s.chain.out ∧
      (∀ (i : Nat) (h : i < 8),
        t.chain.sr[i]'(Nat.lt_trans h (by decide)) = if byte.getLsbD i then .high else .low) ∧
      (∀ (i : Nat) (h : i < 8),
        t.chain.sr[i + 8]'(Nat.add_lt_add_right h 8) = s.chain.sr[i]'(Nat.lt_trans h (by decide)))

/-- R34, R44: PULSE of the latch line, with the latch role on the wired latch pin and that line at 0, copies `SR` to
`OUT`, all sixteen cells, and leaves `SR`. That it runs by itself is the model's form of the routine (log 6, DESIGN
CHOICE), and the chain is the spec's reference model (log 13, PRESUMED). -/
def Obligations.LatchPulseCommits : Prop :=
  ∀ s : State, s.fault = .none → s.params.wires.distinct = true → s.pinLatch = .pin s.params.wires.latch →
    s.lineLow s.params.wires.latch →
    ∃ t, exec (.pulse .latch) s = .next t ∧ t.chain.out = s.chain.sr ∧ t.chain.sr = s.chain.sr

-- ==== The whole machine ====

/-- The invariant holds after reset, for any number of issuers and any distinct wiring, and at the start of every run. -/
def Obligations.ResetMeetsTheInvariant : Prop :=
  State.reset.inv = true ∧
    ∀ (n : Nat) (ps : Params) (ls : List ScriptLine), ps.wires.distinct = true →
      (State.resetFor n ps).inv = true ∧ (State.startOfRun n ps ls).inv = true

/-- Every step, Reset included, keeps the invariant: lines in canonical form, wired pins distinct (R33), pins assigned
in the initialised state (R12), every cursor one of R16's, every write in flight one-hot (R88), the fault record
fitting its code (R101). -/
def Obligations.EveryStepKeepsTheInvariant : Prop :=
  ∀ s t : State, s.inv = true → step s = .next t → t.inv = true

/-- R12: "In no run, with one issuer or several, does a rule read a pin register that holds X": no step from a state
that meets the invariant is refused, for that reason or any other. -/
def Obligations.NoStepOfARunIsRefused : Prop :=
  ∀ (s : State) (r : Refusal), s.inv = true → step s ≠ .refused r

/-- R31: no step reads `SR`, `OUT` or a line back into the block: with any other lines and chain it has the same
outcome, and a next state that differs in nothing but lines and chain. -/
def Obligations.NothingIsReadBack : Prop :=
  ∀ (s : State) (g : Gpio) (c : Chain),
    (∀ t, step s = .next t →
      ∃ g' c', step { s with gpio := g, chain := c } = .next { t with gpio := g', chain := c' }) ∧
    (∀ r, step s = .fault r → step { s with gpio := g, chain := c } = .fault r) ∧
    (∀ r, step s = .refused r → step { s with gpio := g, chain := c } = .refused r)

/-- R20, R41: outside Reset a step appends at most one event to `TRACE` and takes none away. -/
def Obligations.TraceGrowsByAtMostOneEvent : Prop :=
  ∀ s t : State, step s = .next t → s.resetNext = false → t.trace = s.trace ∨ ∃ e, t.trace = s.trace ++ [e]

/-- R44, R34: with the lines in canonical form (an invariant), outside Reset the outputs change only in a step that
drives the wired latch pin high, and the shift stage only in one that drives the wired clock pin high. That they change
at a drive high and not at the fall is decision D17 with K3 (log 13, PRESUMED). -/
def Obligations.OutputsChangeOnlyAtALatchRise : Prop :=
  ∀ s t : State, s.gpio.wf = true → step s = .next t → s.resetNext = false →
    (t.chain.out ≠ s.chain.out → t.trace = s.trace ++ [.drv s.params.wires.latch true]) ∧
    (t.chain.sr ≠ s.chain.sr → t.trace = s.trace ++ [.drv s.params.wires.clock true])

/-- R16, R17, R90: no cancellation: outside Reset a command in flight keeps its operands and its place, or moves on by
one micro-operation, or ends after its last. -/
def Obligations.CommandsInFlightAreNeverCancelled : Prop :=
  ∀ (s t : State) (j k : Nat) (c : Command), step s = .next t → s.resetNext = false →
    s.seqAt j = some (.run c k) →
    t.seqAt j = some (.run c k) ∨ (k + 1 < (microOpsOf c).length ∧ t.seqAt j = some (.run c (k + 1))) ∨
      (k + 1 = (microOpsOf c).length ∧ t.seqAt j = some .idle)

/-- R42, R46: interleaving can corrupt: from some state of the invariant in which two issuers, with nothing more to
present, have each just issued a WRITEDIGIT (with a one-hot address, as the invariant says), a schedule of turns of these
two alone ends with both commands complete and an address in `OUT` that selects two panels. The chain is the reference
model of decision D17 (log 13, PRESUMED). -/
def Obligations.InterleavedWritesCanCorruptThePanel : Prop :=
  ∃ (s t : State) (f f' : Frame), s.inv = true ∧ s.chainReady ∧
    s.issuers = [⟨.run (.writeDigit f) 0, [], []⟩, ⟨.run (.writeDigit f') 0, [], []⟩] ∧
    (∀ turn ∈ s.schedule, turn = .issuer 0 ∨ turn = .issuer 1) ∧
    run s.schedule.length s = .next t ∧ t.seqAt 0 = some .idle ∧ t.seqAt 1 = some .idle ∧
    t.fault = .none ∧ panelSelect t.chain.out 7 = .high ∧ panelSelect t.chain.out 1 = .high

/-- R131, R90, R16: in an endless run in which every issuer's enabled `Step` is eventually taken, a command in flight is
sooner or later over: its issuer is `Idle` again, after its last micro-operation (CommandsInFlightAreNeverCancelled) or by
a Reset. The fairness is a premise: the free choice of who moves may starve an issuer (log 19, DESIGN CHOICE). -/
def Obligations.FairRunsEndEveryCommandInFlight : Prop :=
  ∀ (r : Nat → State) (j n k : Nat) (c : Command), EndlessRun r → WeaklyFair r →
    (r n).seqAt j = some (.run c k) → ∃ m, n ≤ m ∧ (r m).seqAt j = some .idle
end

