-- ==== Sys2Proof/Laws/Chain.lean ====
section
/-! SUPPORT. What the downstream chain does at a drive (spec/20_memory.md R34), once. -/

namespace Sys2Proof.Machine

/-- The newest bit enters at cell 0. -/
@[simp] theorem Cells.shiftIn_zero (b : Level) (v : Cells) : (v.shiftIn b)[0] = b := by
  simp [Cells.shiftIn]

/-- Every other cell takes the cell below it. -/
theorem Cells.shiftIn_succ (b : Level) (v : Cells) (i : Nat) (h : i + 1 < 16) :
    (v.shiftIn b)[i + 1] = v[i]'(Nat.lt_of_succ_lt h) := by
  simp [Cells.shiftIn]

@[simp] theorem Cells.allX_get (i : Nat) (h : i < 16) : Cells.allX[i] = .x := by
  simp [Cells.allX]

theorem Cells.ofFrame_get (f : Frame) (i : Nat) (h : i < 16) :
    (Cells.ofFrame f)[i] = Level.ofBool (f.getLsbD i) := by
  simp [Cells.ofFrame, BitVec.getLsbD_eq_getElem, h]

/-- The select line of a panel, with a frame in the outputs (R36). -/
theorem panelSelect_ofFrame (f : Frame) (q : Fin 8) :
    panelSelect (Cells.ofFrame f) q = Level.ofBool (f.getLsbD (8 + q.val)) :=
  Cells.ofFrame_get f (8 + q.val) (Nat.add_lt_add_left q.isLt 8)

/-- A segment line, with a frame in the outputs (R36). -/
theorem segmentLine_ofFrame (f : Frame) (s : Fin 8) :
    segmentLine (Cells.ofFrame f) s = Level.ofBool (f.getLsbD s.val) :=
  Cells.ofFrame_get f s.val (Nat.lt_trans s.isLt (by decide))

theorem Cells.ext (v w : Cells) (h : ∀ i, (hi : i < 16) → v[i] = w[i]) : v = w :=
  Vector.ext h

/-- A drive of a pin the chain is not clocked or latched by does nothing. -/
theorem Chain.react_unwired (w : Wires) (p : PinId) (o n d : Level) (c : Chain) (hc : p ≠ w.clock) (hl : p ≠ w.latch) :
    c.react w p o n d = c := by
  simp [Chain.react, hc, hl]

/-- A drive that does not end high does nothing. -/
theorem Chain.react_not_high (w : Wires) (p : PinId) (o n d : Level) (c : Chain) (h : n ≠ .high) :
    c.react w p o n d = c := by
  cases o <;> cases n <;> simp_all [Chain.react, Chain.clockEdge, Chain.latchEdge]

theorem Chain.react_clock (w : Wires) (o n d : Level) (c : Chain) (h : w.clock ≠ w.latch) :
    c.react w w.clock o n d = c.clockEdge o n d := by
  simp [Chain.react, h]

theorem Chain.react_latch (w : Wires) (o n d : Level) (c : Chain) (h : w.clock ≠ w.latch) :
    c.react w w.latch o n d = c.latchEdge o n := by
  simp [Chain.react, h.symm]

/-- `OUT` changes only when the wired latch pin ends high. -/
theorem Chain.react_out (w : Wires) (p : PinId) (o n d : Level) (c : Chain)
    (h : (c.react w p o n d).out ≠ c.out) : p = w.latch ∧ n = .high := by
  refine ⟨?_, ?_⟩
  · by_contra hp
    apply h
    by_cases hc : p = w.clock
    · cases o <;> cases n <;> simp_all [Chain.react, Chain.clockEdge]
    · rw [Chain.react_unwired w p o n d c hc hp]
  · by_contra hn
    exact h (by rw [Chain.react_not_high w p o n d c hn])

/-- `SR` changes only when the wired clock pin ends high. -/
theorem Chain.react_sr (w : Wires) (p : PinId) (o n d : Level) (c : Chain)
    (h : (c.react w p o n d).sr ≠ c.sr) : p = w.clock ∧ n = .high := by
  refine ⟨?_, ?_⟩
  · by_contra hp
    apply h
    by_cases hl : p = w.latch
    · cases o <;> cases n <;> simp_all [Chain.react, Chain.latchEdge]
    · rw [Chain.react_unwired w p o n d c hp hl]
  · by_contra hn
    exact h (by rw [Chain.react_not_high w p o n d c hn])

end Sys2Proof.Machine
end

