-- ==== Sys2Proof/Laws/Gpio.lean ====
section
/-! SUPPORT. The laws of the lines: a read after a write to the same pin, a write leaves every other pin alone, and
every operation keeps the canonical form. -/

namespace Sys2Proof.Machine

theorem Gpio.lineAt_cons_self (a : Nat) (l : Line) (g : Gpio) (h : l ≠ Line.atReset) :
    Gpio.lineAt (Gpio.cons a l g) a = l := by
  simp [Gpio.cons, h, Gpio.lineAt]

theorem Gpio.lineAt_cons_other (a c : Nat) (l : Line) (g : Gpio) (h : c ≠ a) :
    Gpio.lineAt (Gpio.cons a l g) c = Gpio.lineAt g c := by
  unfold Gpio.cons
  split
  · rfl
  · simp [Gpio.lineAt, h]

theorem Gpio.lineAt_putAt_other (a c : Nat) (l : Line) (g : Gpio) (h : c ≠ a) :
    Gpio.lineAt (Gpio.putAt a l g) c = Gpio.lineAt g c := by
  induction g with
  | nil => simp only [Gpio.putAt, Gpio.lineAt_cons_other a c l [] h]
  | cons e g ih =>
    obtain ⟨b, m⟩ := e
    simp only [Gpio.putAt]
    split
    · exact Gpio.lineAt_cons_other a c l _ h
    · split
      · next hab => subst hab; simp [Gpio.lineAt_cons_other a c l g h, Gpio.lineAt, h]
      · simp [Gpio.lineAt, ih]

theorem Gpio.lineAt_putAt_self (a : Nat) (l : Line) (g : Gpio) (h : l ≠ Line.atReset) :
    Gpio.lineAt (Gpio.putAt a l g) a = l := by
  induction g with
  | nil => exact Gpio.lineAt_cons_self a l [] h
  | cons e g ih =>
    obtain ⟨b, m⟩ := e
    simp only [Gpio.putAt]
    split
    · exact Gpio.lineAt_cons_self a l _ h
    · split
      · exact Gpio.lineAt_cons_self a l g h
      · next h2 => simp [Gpio.lineAt, h2, ih]

/-- Below the first listed pin every line is at its reset value. -/
theorem Gpio.lineAt_of_wfFrom (lo a : Nat) (g : Gpio) (h : Gpio.wfFrom lo g = true) (ha : a < lo) :
    Gpio.lineAt g a = Line.atReset := by
  induction g generalizing lo with
  | nil => rfl
  | cons e g ih =>
    obtain ⟨b, m⟩ := e
    simp only [Gpio.wfFrom, Bool.and_eq_true, decide_eq_true_eq] at h
    have hne : a ≠ b := by omega
    simp [Gpio.lineAt, hne, ih (b + 1) h.2 (by omega)]

theorem Gpio.wfFrom_mono (lo lo' : Nat) (g : Gpio) (h : Gpio.wfFrom lo g = true) (hl : lo' ≤ lo) :
    Gpio.wfFrom lo' g = true := by
  cases g with
  | nil => rfl
  | cons e g =>
    obtain ⟨b, m⟩ := e
    simp only [Gpio.wfFrom, Bool.and_eq_true, decide_eq_true_eq] at h ⊢
    exact ⟨⟨⟨by omega, h.1.1.2⟩, h.1.2⟩, h.2⟩

theorem Gpio.wfFrom_cons (lo a : Nat) (l : Line) (g : Gpio) (h : Gpio.wfFrom (a + 1) g = true) (hl : lo ≤ a)
    (ha : a < 256) : Gpio.wfFrom lo (Gpio.cons a l g) = true := by
  unfold Gpio.cons
  split
  · exact Gpio.wfFrom_mono _ _ g h (by omega)
  · next hne => simp [Gpio.wfFrom, hl, ha, hne, h]

theorem Gpio.wfFrom_putAt (lo a : Nat) (l : Line) (g : Gpio) (h : Gpio.wfFrom lo g = true) (hl : lo ≤ a)
    (ha : a < 256) : Gpio.wfFrom lo (Gpio.putAt a l g) = true := by
  induction g generalizing lo with
  | nil => exact Gpio.wfFrom_cons lo a l [] rfl hl ha
  | cons e g ih =>
    obtain ⟨b, m⟩ := e
    have h' := h
    simp only [Gpio.wfFrom, Bool.and_eq_true, decide_eq_true_eq] at h
    simp only [Gpio.putAt]
    split
    · next hab =>
      refine Gpio.wfFrom_cons lo a l _ ?_ hl ha
      simp only [Gpio.wfFrom, Bool.and_eq_true, decide_eq_true_eq]
      exact ⟨⟨⟨by omega, h.1.1.2⟩, h.1.2⟩, h.2⟩
    · split
      · next hab => subst hab; exact Gpio.wfFrom_cons lo a l g h.2 hl ha
      · next h1 h2 =>
        simp only [Gpio.wfFrom, Bool.and_eq_true, decide_eq_true_eq]
        exact ⟨⟨⟨h.1.1.1, h.1.1.2⟩, h.1.2⟩, ih (b + 1) h.2 (by omega)⟩

theorem Gpio.lineAt_putAt_self_of_wfFrom (lo a : Nat) (l : Line) (g : Gpio) (h : Gpio.wfFrom lo g = true) :
    Gpio.lineAt (Gpio.putAt a l g) a = l := by
  by_cases hl : l = Line.atReset
  · subst hl
    induction g generalizing lo with
    | nil => simp [Gpio.putAt, Gpio.cons, Gpio.lineAt]
    | cons e g ih =>
      obtain ⟨b, m⟩ := e
      have h' := h
      simp only [Gpio.wfFrom, Bool.and_eq_true, decide_eq_true_eq] at h
      simp only [Gpio.putAt]
      split
      · next hab =>
        have hne : a ≠ b := by omega
        simp [Gpio.cons, Gpio.lineAt, hne, Gpio.lineAt_of_wfFrom (b + 1) a g h.2 (by omega)]
      · split
        · next hab =>
          subst hab
          simp [Gpio.cons, Gpio.lineAt_of_wfFrom (a + 1) a g h.2 (by omega)]
        · next h2 => simp [Gpio.lineAt, h2, ih (b + 1) h.2]
  · exact Gpio.lineAt_putAt_self a l g hl

@[simp] theorem Gpio.line_nil (p : PinId) : Gpio.line [] p = Line.atReset := rfl

theorem Gpio.line_put_self (g : Gpio) (p : PinId) (l : Line) (h : l ≠ Line.atReset) : (g.put p l).line p = l :=
  Gpio.lineAt_putAt_self p.toNat l g h

theorem Gpio.line_put_self_of_wf (g : Gpio) (p : PinId) (l : Line) (h : g.wf = true) : (g.put p l).line p = l :=
  Gpio.lineAt_putAt_self_of_wfFrom 0 p.toNat l g h

theorem Gpio.line_put_other (g : Gpio) (p q : PinId) (l : Line) (h : q ≠ p) : (g.put p l).line q = g.line q :=
  Gpio.lineAt_putAt_other p.toNat q.toNat l g fun e => h (BitVec.eq_of_toNat_eq e)

theorem Gpio.wf_put (g : Gpio) (p : PinId) (l : Line) (h : g.wf = true) : (g.put p l).wf = true :=
  Gpio.wfFrom_putAt 0 p.toNat l g h (Nat.zero_le _) p.isLt

theorem Gpio.wf_configure (g : Gpio) (p : PinId) (h : g.wf = true) : (g.configure p).wf = true :=
  Gpio.wf_put g p _ h

theorem Gpio.wf_drive (g : Gpio) (p : PinId) (b : Bool) (h : g.wf = true) : (g.drive p b).wf = true :=
  Gpio.wf_put g p _ h

theorem Gpio.line_configure_self (g : Gpio) (p : PinId) : (g.configure p).line p = ⟨.output, (g.line p).level⟩ :=
  Gpio.line_put_self g p _ (by simp [Line.atReset])

theorem Gpio.line_configure_other (g : Gpio) (p q : PinId) (h : q ≠ p) : (g.configure p).line q = g.line q :=
  Gpio.line_put_other g p q _ h

/-- A drive of an output puts the bit on its line. -/
theorem Gpio.line_drive_self (g : Gpio) (p : PinId) (b : Bool) (h : (g.line p).mode = .output) :
    (g.drive p b).line p = ⟨.output, Level.ofBool b⟩ := by
  have hd : (g.line p).driven b = ⟨.output, Level.ofBool b⟩ := by simp [Line.driven, h]
  unfold Gpio.drive
  rw [hd]
  exact Gpio.line_put_self g p _ (by simp [Line.atReset])

theorem Gpio.line_drive_self_of_wf (g : Gpio) (p : PinId) (b : Bool) (h : g.wf = true) :
    (g.drive p b).line p = (g.line p).driven b :=
  Gpio.line_put_self_of_wf g p _ h

theorem Gpio.line_drive_other (g : Gpio) (p q : PinId) (b : Bool) (h : q ≠ p) :
    (g.drive p b).line q = g.line q :=
  Gpio.line_put_other g p q _ h

/-- Canonical lists with equal lines are equal. -/
theorem Gpio.eq_of_lineAt_eq (lo : Nat) (g g' : Gpio) (h : Gpio.wfFrom lo g = true) (h' : Gpio.wfFrom lo g' = true)
    (heq : ∀ a, Gpio.lineAt g a = Gpio.lineAt g' a) : g = g' := by
  induction g generalizing lo g' with
  | nil =>
    cases g' with
    | nil => rfl
    | cons e g' =>
      obtain ⟨b, m⟩ := e
      simp only [Gpio.wfFrom, Bool.and_eq_true, decide_eq_true_eq] at h'
      have := heq b
      simp [Gpio.lineAt] at this
      exact absurd this.symm h'.1.2
  | cons e g ih =>
    obtain ⟨b, m⟩ := e
    have h0 := h
    simp only [Gpio.wfFrom, Bool.and_eq_true, decide_eq_true_eq] at h
    cases g' with
    | nil =>
      have := heq b
      simp [Gpio.lineAt] at this
      exact absurd this h.1.2
    | cons e' g' =>
      obtain ⟨b', m'⟩ := e'
      have h0' := h'
      simp only [Gpio.wfFrom, Bool.and_eq_true, decide_eq_true_eq] at h'
      have hbb : b = b' := by
        rcases Nat.lt_trichotomy b b' with hlt | he | hlt
        · have := heq b
          have hne : b ≠ b' := by omega
          rw [show Gpio.lineAt ((b', m') :: g') b = Line.atReset by
            simp [Gpio.lineAt, hne, Gpio.lineAt_of_wfFrom (b' + 1) b g' h'.2 (by omega)]] at this
          simp [Gpio.lineAt] at this
          exact absurd this h.1.2
        · exact he
        · have := heq b'
          have hne : b' ≠ b := by omega
          rw [show Gpio.lineAt ((b, m) :: g) b' = Line.atReset by
            simp [Gpio.lineAt, hne, Gpio.lineAt_of_wfFrom (b + 1) b' g h.2 (by omega)]] at this
          simp [Gpio.lineAt] at this
          exact absurd this.symm h'.1.2
      subst hbb
      have hm : m = m' := by have := heq b; simpa [Gpio.lineAt] using this
      subst hm
      have := ih (b + 1) g' h.2 h'.2 fun a => by
        by_cases hab : a = b
        · subst hab
          rw [Gpio.lineAt_of_wfFrom (a + 1) a g h.2 (by omega), Gpio.lineAt_of_wfFrom (a + 1) a g' h'.2 (by omega)]
        · have := heq a; simpa [Gpio.lineAt, hab] using this
      rw [this]

end Sys2Proof.Machine
end

