-- ==== Sys2Proof/Laws/State.lean ====
section
/-! SUPPORT. What each update of the state makes of each field, one lemma per field per update, so that no proof
unfolds a record update. -/

namespace Sys2Proof.Machine

variable (s : State)

@[simp] theorem State.setInit_init : s.setInit.init = true := rfl
@[simp] theorem State.setInit_pinData : s.setInit.pinData = s.pinData := rfl
@[simp] theorem State.setInit_pinClock : s.setInit.pinClock = s.pinClock := rfl
@[simp] theorem State.setInit_pinLatch : s.setInit.pinLatch = s.pinLatch := rfl
@[simp] theorem State.setInit_pulseDelay : s.setInit.pulseDelay = s.pulseDelay := rfl
@[simp] theorem State.setInit_fault : s.setInit.fault = s.fault := rfl
@[simp] theorem State.setInit_issuers : s.setInit.issuers = s.issuers := rfl
@[simp] theorem State.setInit_gpio : s.setInit.gpio = s.gpio := rfl
@[simp] theorem State.setInit_chain : s.setInit.chain = s.chain := rfl
@[simp] theorem State.setInit_trace : s.setInit.trace = s.trace := rfl
@[simp] theorem State.setInit_faultInfo : s.setInit.faultInfo = s.faultInfo := rfl
@[simp] theorem State.setInit_params : s.setInit.params = s.params := rfl
@[simp] theorem State.setInit_schedule : s.setInit.schedule = s.schedule := rfl
@[simp] theorem State.setInit_active : s.setInit.active = s.active := rfl
@[simp] theorem State.setInit_fresh : s.setInit.fresh = s.fresh := rfl

@[simp] theorem State.setFault_init (k : FaultCode) (v : FaultInfo) : (s.setFault k v).init = s.init := rfl
@[simp] theorem State.setFault_pinData (k : FaultCode) (v : FaultInfo) : (s.setFault k v).pinData = s.pinData := rfl
@[simp] theorem State.setFault_pinClock (k : FaultCode) (v : FaultInfo) : (s.setFault k v).pinClock = s.pinClock := rfl
@[simp] theorem State.setFault_pinLatch (k : FaultCode) (v : FaultInfo) : (s.setFault k v).pinLatch = s.pinLatch := rfl
@[simp] theorem State.setFault_pulseDelay (k : FaultCode) (v : FaultInfo) : (s.setFault k v).pulseDelay = s.pulseDelay := rfl
@[simp] theorem State.setFault_fault (k : FaultCode) (v : FaultInfo) : (s.setFault k v).fault = k := rfl
@[simp] theorem State.setFault_issuers (k : FaultCode) (v : FaultInfo) : (s.setFault k v).issuers = s.issuers := rfl
@[simp] theorem State.setFault_gpio (k : FaultCode) (v : FaultInfo) : (s.setFault k v).gpio = s.gpio := rfl
@[simp] theorem State.setFault_chain (k : FaultCode) (v : FaultInfo) : (s.setFault k v).chain = s.chain := rfl
@[simp] theorem State.setFault_trace (k : FaultCode) (v : FaultInfo) : (s.setFault k v).trace = s.trace := rfl
@[simp] theorem State.setFault_faultInfo (k : FaultCode) (v : FaultInfo) : (s.setFault k v).faultInfo = v := rfl
@[simp] theorem State.setFault_params (k : FaultCode) (v : FaultInfo) : (s.setFault k v).params = s.params := rfl
@[simp] theorem State.setFault_schedule (k : FaultCode) (v : FaultInfo) : (s.setFault k v).schedule = s.schedule := rfl
@[simp] theorem State.setFault_active (k : FaultCode) (v : FaultInfo) : (s.setFault k v).active = s.active := rfl
@[simp] theorem State.setFault_fresh (k : FaultCode) (v : FaultInfo) : (s.setFault k v).fresh = s.fresh := rfl

@[simp] theorem State.setPins_init (d c l : PinId) : (s.setPins d c l).init = s.init := rfl
@[simp] theorem State.setPins_pinData (d c l : PinId) : (s.setPins d c l).pinData = .pin d := rfl
@[simp] theorem State.setPins_pinClock (d c l : PinId) : (s.setPins d c l).pinClock = .pin c := rfl
@[simp] theorem State.setPins_pinLatch (d c l : PinId) : (s.setPins d c l).pinLatch = .pin l := rfl
@[simp] theorem State.setPins_pulseDelay (d c l : PinId) : (s.setPins d c l).pulseDelay = s.pulseDelay := rfl
@[simp] theorem State.setPins_fault (d c l : PinId) : (s.setPins d c l).fault = s.fault := rfl
@[simp] theorem State.setPins_issuers (d c l : PinId) : (s.setPins d c l).issuers = s.issuers := rfl
@[simp] theorem State.setPins_gpio (d c l : PinId) : (s.setPins d c l).gpio = s.gpio := rfl
@[simp] theorem State.setPins_chain (d c l : PinId) : (s.setPins d c l).chain = s.chain := rfl
@[simp] theorem State.setPins_trace (d c l : PinId) : (s.setPins d c l).trace = s.trace := rfl
@[simp] theorem State.setPins_faultInfo (d c l : PinId) : (s.setPins d c l).faultInfo = s.faultInfo := rfl
@[simp] theorem State.setPins_params (d c l : PinId) : (s.setPins d c l).params = s.params := rfl
@[simp] theorem State.setPins_schedule (d c l : PinId) : (s.setPins d c l).schedule = s.schedule := rfl
@[simp] theorem State.setPins_active (d c l : PinId) : (s.setPins d c l).active = s.active := rfl
@[simp] theorem State.setPins_fresh (d c l : PinId) : (s.setPins d c l).fresh = s.fresh := rfl

@[simp] theorem State.setDelay_init (d : Delay) : (s.setDelay d).init = s.init := rfl
@[simp] theorem State.setDelay_pinData (d : Delay) : (s.setDelay d).pinData = s.pinData := rfl
@[simp] theorem State.setDelay_pinClock (d : Delay) : (s.setDelay d).pinClock = s.pinClock := rfl
@[simp] theorem State.setDelay_pinLatch (d : Delay) : (s.setDelay d).pinLatch = s.pinLatch := rfl
@[simp] theorem State.setDelay_pulseDelay (d : Delay) : (s.setDelay d).pulseDelay = d := rfl
@[simp] theorem State.setDelay_fault (d : Delay) : (s.setDelay d).fault = s.fault := rfl
@[simp] theorem State.setDelay_issuers (d : Delay) : (s.setDelay d).issuers = s.issuers := rfl
@[simp] theorem State.setDelay_gpio (d : Delay) : (s.setDelay d).gpio = s.gpio := rfl
@[simp] theorem State.setDelay_chain (d : Delay) : (s.setDelay d).chain = s.chain := rfl
@[simp] theorem State.setDelay_trace (d : Delay) : (s.setDelay d).trace = s.trace := rfl
@[simp] theorem State.setDelay_faultInfo (d : Delay) : (s.setDelay d).faultInfo = s.faultInfo := rfl
@[simp] theorem State.setDelay_params (d : Delay) : (s.setDelay d).params = s.params := rfl
@[simp] theorem State.setDelay_schedule (d : Delay) : (s.setDelay d).schedule = s.schedule := rfl
@[simp] theorem State.setDelay_active (d : Delay) : (s.setDelay d).active = s.active := rfl
@[simp] theorem State.setDelay_fresh (d : Delay) : (s.setDelay d).fresh = s.fresh := rfl

@[simp] theorem State.setGpio_init (g : Gpio) : (s.setGpio g).init = s.init := rfl
@[simp] theorem State.setGpio_pinData (g : Gpio) : (s.setGpio g).pinData = s.pinData := rfl
@[simp] theorem State.setGpio_pinClock (g : Gpio) : (s.setGpio g).pinClock = s.pinClock := rfl
@[simp] theorem State.setGpio_pinLatch (g : Gpio) : (s.setGpio g).pinLatch = s.pinLatch := rfl
@[simp] theorem State.setGpio_pulseDelay (g : Gpio) : (s.setGpio g).pulseDelay = s.pulseDelay := rfl
@[simp] theorem State.setGpio_fault (g : Gpio) : (s.setGpio g).fault = s.fault := rfl
@[simp] theorem State.setGpio_issuers (g : Gpio) : (s.setGpio g).issuers = s.issuers := rfl
@[simp] theorem State.setGpio_gpio (g : Gpio) : (s.setGpio g).gpio = g := rfl
@[simp] theorem State.setGpio_chain (g : Gpio) : (s.setGpio g).chain = s.chain := rfl
@[simp] theorem State.setGpio_trace (g : Gpio) : (s.setGpio g).trace = s.trace := rfl
@[simp] theorem State.setGpio_faultInfo (g : Gpio) : (s.setGpio g).faultInfo = s.faultInfo := rfl
@[simp] theorem State.setGpio_params (g : Gpio) : (s.setGpio g).params = s.params := rfl
@[simp] theorem State.setGpio_schedule (g : Gpio) : (s.setGpio g).schedule = s.schedule := rfl
@[simp] theorem State.setGpio_active (g : Gpio) : (s.setGpio g).active = s.active := rfl
@[simp] theorem State.setGpio_fresh (g : Gpio) : (s.setGpio g).fresh = s.fresh := rfl

@[simp] theorem State.setChain_init (c : Chain) : (s.setChain c).init = s.init := rfl
@[simp] theorem State.setChain_pinData (c : Chain) : (s.setChain c).pinData = s.pinData := rfl
@[simp] theorem State.setChain_pinClock (c : Chain) : (s.setChain c).pinClock = s.pinClock := rfl
@[simp] theorem State.setChain_pinLatch (c : Chain) : (s.setChain c).pinLatch = s.pinLatch := rfl
@[simp] theorem State.setChain_pulseDelay (c : Chain) : (s.setChain c).pulseDelay = s.pulseDelay := rfl
@[simp] theorem State.setChain_fault (c : Chain) : (s.setChain c).fault = s.fault := rfl
@[simp] theorem State.setChain_issuers (c : Chain) : (s.setChain c).issuers = s.issuers := rfl
@[simp] theorem State.setChain_gpio (c : Chain) : (s.setChain c).gpio = s.gpio := rfl
@[simp] theorem State.setChain_chain (c : Chain) : (s.setChain c).chain = c := rfl
@[simp] theorem State.setChain_trace (c : Chain) : (s.setChain c).trace = s.trace := rfl
@[simp] theorem State.setChain_faultInfo (c : Chain) : (s.setChain c).faultInfo = s.faultInfo := rfl
@[simp] theorem State.setChain_params (c : Chain) : (s.setChain c).params = s.params := rfl
@[simp] theorem State.setChain_schedule (c : Chain) : (s.setChain c).schedule = s.schedule := rfl
@[simp] theorem State.setChain_active (c : Chain) : (s.setChain c).active = s.active := rfl
@[simp] theorem State.setChain_fresh (c : Chain) : (s.setChain c).fresh = s.fresh := rfl

@[simp] theorem State.log_init (e : Event) : (s.log e).init = s.init := rfl
@[simp] theorem State.log_pinData (e : Event) : (s.log e).pinData = s.pinData := rfl
@[simp] theorem State.log_pinClock (e : Event) : (s.log e).pinClock = s.pinClock := rfl
@[simp] theorem State.log_pinLatch (e : Event) : (s.log e).pinLatch = s.pinLatch := rfl
@[simp] theorem State.log_pulseDelay (e : Event) : (s.log e).pulseDelay = s.pulseDelay := rfl
@[simp] theorem State.log_fault (e : Event) : (s.log e).fault = s.fault := rfl
@[simp] theorem State.log_issuers (e : Event) : (s.log e).issuers = s.issuers := rfl
@[simp] theorem State.log_gpio (e : Event) : (s.log e).gpio = s.gpio := rfl
@[simp] theorem State.log_chain (e : Event) : (s.log e).chain = s.chain := rfl
@[simp] theorem State.log_trace (e : Event) : (s.log e).trace = s.trace ++ [e] := rfl
@[simp] theorem State.log_faultInfo (e : Event) : (s.log e).faultInfo = s.faultInfo := rfl
@[simp] theorem State.log_params (e : Event) : (s.log e).params = s.params := rfl
@[simp] theorem State.log_schedule (e : Event) : (s.log e).schedule = s.schedule := rfl
@[simp] theorem State.log_active (e : Event) : (s.log e).active = s.active := rfl
@[simp] theorem State.log_fresh (e : Event) : (s.log e).fresh = s.fresh := rfl

@[simp] theorem State.setIssuers_init (is : List Issuer) : (s.setIssuers is).init = s.init := rfl
@[simp] theorem State.setIssuers_pinData (is : List Issuer) : (s.setIssuers is).pinData = s.pinData := rfl
@[simp] theorem State.setIssuers_pinClock (is : List Issuer) : (s.setIssuers is).pinClock = s.pinClock := rfl
@[simp] theorem State.setIssuers_pinLatch (is : List Issuer) : (s.setIssuers is).pinLatch = s.pinLatch := rfl
@[simp] theorem State.setIssuers_pulseDelay (is : List Issuer) : (s.setIssuers is).pulseDelay = s.pulseDelay := rfl
@[simp] theorem State.setIssuers_fault (is : List Issuer) : (s.setIssuers is).fault = s.fault := rfl
@[simp] theorem State.setIssuers_issuers (is : List Issuer) : (s.setIssuers is).issuers = is := rfl
@[simp] theorem State.setIssuers_gpio (is : List Issuer) : (s.setIssuers is).gpio = s.gpio := rfl
@[simp] theorem State.setIssuers_chain (is : List Issuer) : (s.setIssuers is).chain = s.chain := rfl
@[simp] theorem State.setIssuers_trace (is : List Issuer) : (s.setIssuers is).trace = s.trace := rfl
@[simp] theorem State.setIssuers_faultInfo (is : List Issuer) : (s.setIssuers is).faultInfo = s.faultInfo := rfl
@[simp] theorem State.setIssuers_params (is : List Issuer) : (s.setIssuers is).params = s.params := rfl
@[simp] theorem State.setIssuers_schedule (is : List Issuer) : (s.setIssuers is).schedule = s.schedule := rfl
@[simp] theorem State.setIssuers_active (is : List Issuer) : (s.setIssuers is).active = s.active := rfl
@[simp] theorem State.setIssuers_fresh (is : List Issuer) : (s.setIssuers is).fresh = s.fresh := rfl

@[simp] theorem State.setSchedule_init (ts : List Turn) : (s.setSchedule ts).init = s.init := rfl
@[simp] theorem State.setSchedule_pinData (ts : List Turn) : (s.setSchedule ts).pinData = s.pinData := rfl
@[simp] theorem State.setSchedule_pinClock (ts : List Turn) : (s.setSchedule ts).pinClock = s.pinClock := rfl
@[simp] theorem State.setSchedule_pinLatch (ts : List Turn) : (s.setSchedule ts).pinLatch = s.pinLatch := rfl
@[simp] theorem State.setSchedule_pulseDelay (ts : List Turn) : (s.setSchedule ts).pulseDelay = s.pulseDelay := rfl
@[simp] theorem State.setSchedule_fault (ts : List Turn) : (s.setSchedule ts).fault = s.fault := rfl
@[simp] theorem State.setSchedule_issuers (ts : List Turn) : (s.setSchedule ts).issuers = s.issuers := rfl
@[simp] theorem State.setSchedule_gpio (ts : List Turn) : (s.setSchedule ts).gpio = s.gpio := rfl
@[simp] theorem State.setSchedule_chain (ts : List Turn) : (s.setSchedule ts).chain = s.chain := rfl
@[simp] theorem State.setSchedule_trace (ts : List Turn) : (s.setSchedule ts).trace = s.trace := rfl
@[simp] theorem State.setSchedule_faultInfo (ts : List Turn) : (s.setSchedule ts).faultInfo = s.faultInfo := rfl
@[simp] theorem State.setSchedule_params (ts : List Turn) : (s.setSchedule ts).params = s.params := rfl
@[simp] theorem State.setSchedule_schedule (ts : List Turn) : (s.setSchedule ts).schedule = ts := rfl
@[simp] theorem State.setSchedule_active (ts : List Turn) : (s.setSchedule ts).active = s.active := rfl
@[simp] theorem State.setSchedule_fresh (ts : List Turn) : (s.setSchedule ts).fresh = s.fresh := rfl

@[simp] theorem State.setActive_init (j : Nat) : (s.setActive j).init = s.init := rfl
@[simp] theorem State.setActive_pinData (j : Nat) : (s.setActive j).pinData = s.pinData := rfl
@[simp] theorem State.setActive_pinClock (j : Nat) : (s.setActive j).pinClock = s.pinClock := rfl
@[simp] theorem State.setActive_pinLatch (j : Nat) : (s.setActive j).pinLatch = s.pinLatch := rfl
@[simp] theorem State.setActive_pulseDelay (j : Nat) : (s.setActive j).pulseDelay = s.pulseDelay := rfl
@[simp] theorem State.setActive_fault (j : Nat) : (s.setActive j).fault = s.fault := rfl
@[simp] theorem State.setActive_issuers (j : Nat) : (s.setActive j).issuers = s.issuers := rfl
@[simp] theorem State.setActive_gpio (j : Nat) : (s.setActive j).gpio = s.gpio := rfl
@[simp] theorem State.setActive_chain (j : Nat) : (s.setActive j).chain = s.chain := rfl
@[simp] theorem State.setActive_trace (j : Nat) : (s.setActive j).trace = s.trace := rfl
@[simp] theorem State.setActive_faultInfo (j : Nat) : (s.setActive j).faultInfo = s.faultInfo := rfl
@[simp] theorem State.setActive_params (j : Nat) : (s.setActive j).params = s.params := rfl
@[simp] theorem State.setActive_schedule (j : Nat) : (s.setActive j).schedule = s.schedule := rfl
@[simp] theorem State.setActive_active (j : Nat) : (s.setActive j).active = j := rfl
@[simp] theorem State.setActive_fresh (j : Nat) : (s.setActive j).fresh = s.fresh := rfl

@[simp] theorem State.tick_init : s.tick.init = s.init := rfl
@[simp] theorem State.tick_pinData : s.tick.pinData = s.pinData := rfl
@[simp] theorem State.tick_pinClock : s.tick.pinClock = s.pinClock := rfl
@[simp] theorem State.tick_pinLatch : s.tick.pinLatch = s.pinLatch := rfl
@[simp] theorem State.tick_pulseDelay : s.tick.pulseDelay = s.pulseDelay := rfl
@[simp] theorem State.tick_fault : s.tick.fault = s.fault := rfl
@[simp] theorem State.tick_issuers : s.tick.issuers = s.issuers := rfl
@[simp] theorem State.tick_gpio : s.tick.gpio = s.gpio := rfl
@[simp] theorem State.tick_chain : s.tick.chain = s.chain := rfl
@[simp] theorem State.tick_trace : s.tick.trace = s.trace := rfl
@[simp] theorem State.tick_faultInfo : s.tick.faultInfo = s.faultInfo := rfl
@[simp] theorem State.tick_params : s.tick.params = s.params := rfl
@[simp] theorem State.tick_schedule : s.tick.schedule = s.schedule := rfl
@[simp] theorem State.tick_active : s.tick.active = s.active := rfl
@[simp] theorem State.tick_fresh : s.tick.fresh = s.fresh + 1 := rfl

@[simp] theorem State.setSeq_init (j : Nat) (c : Cursor) : (s.setSeq j c).init = s.init := rfl
@[simp] theorem State.setSeq_pinData (j : Nat) (c : Cursor) : (s.setSeq j c).pinData = s.pinData := rfl
@[simp] theorem State.setSeq_pinClock (j : Nat) (c : Cursor) : (s.setSeq j c).pinClock = s.pinClock := rfl
@[simp] theorem State.setSeq_pinLatch (j : Nat) (c : Cursor) : (s.setSeq j c).pinLatch = s.pinLatch := rfl
@[simp] theorem State.setSeq_pulseDelay (j : Nat) (c : Cursor) : (s.setSeq j c).pulseDelay = s.pulseDelay := rfl
@[simp] theorem State.setSeq_fault (j : Nat) (c : Cursor) : (s.setSeq j c).fault = s.fault := rfl
@[simp] theorem State.setSeq_issuers (j : Nat) (c : Cursor) : (s.setSeq j c).issuers = s.issuers.modify j fun i => { i with seq := c } := rfl
@[simp] theorem State.setSeq_gpio (j : Nat) (c : Cursor) : (s.setSeq j c).gpio = s.gpio := rfl
@[simp] theorem State.setSeq_chain (j : Nat) (c : Cursor) : (s.setSeq j c).chain = s.chain := rfl
@[simp] theorem State.setSeq_trace (j : Nat) (c : Cursor) : (s.setSeq j c).trace = s.trace := rfl
@[simp] theorem State.setSeq_faultInfo (j : Nat) (c : Cursor) : (s.setSeq j c).faultInfo = s.faultInfo := rfl
@[simp] theorem State.setSeq_params (j : Nat) (c : Cursor) : (s.setSeq j c).params = s.params := rfl
@[simp] theorem State.setSeq_schedule (j : Nat) (c : Cursor) : (s.setSeq j c).schedule = s.schedule := rfl
@[simp] theorem State.setSeq_active (j : Nat) (c : Cursor) : (s.setSeq j c).active = s.active := rfl
@[simp] theorem State.setSeq_fresh (j : Nat) (c : Cursor) : (s.setSeq j c).fresh = s.fresh := rfl

@[simp] theorem State.setScript_init (j : Nat) (ws : List CommandWord) : (s.setScript j ws).init = s.init := rfl
@[simp] theorem State.setScript_pinData (j : Nat) (ws : List CommandWord) : (s.setScript j ws).pinData = s.pinData := rfl
@[simp] theorem State.setScript_pinClock (j : Nat) (ws : List CommandWord) : (s.setScript j ws).pinClock = s.pinClock := rfl
@[simp] theorem State.setScript_pinLatch (j : Nat) (ws : List CommandWord) : (s.setScript j ws).pinLatch = s.pinLatch := rfl
@[simp] theorem State.setScript_pulseDelay (j : Nat) (ws : List CommandWord) : (s.setScript j ws).pulseDelay = s.pulseDelay := rfl
@[simp] theorem State.setScript_fault (j : Nat) (ws : List CommandWord) : (s.setScript j ws).fault = s.fault := rfl
@[simp] theorem State.setScript_issuers (j : Nat) (ws : List CommandWord) : (s.setScript j ws).issuers = s.issuers.modify j fun i => { i with script := ws } := rfl
@[simp] theorem State.setScript_gpio (j : Nat) (ws : List CommandWord) : (s.setScript j ws).gpio = s.gpio := rfl
@[simp] theorem State.setScript_chain (j : Nat) (ws : List CommandWord) : (s.setScript j ws).chain = s.chain := rfl
@[simp] theorem State.setScript_trace (j : Nat) (ws : List CommandWord) : (s.setScript j ws).trace = s.trace := rfl
@[simp] theorem State.setScript_faultInfo (j : Nat) (ws : List CommandWord) : (s.setScript j ws).faultInfo = s.faultInfo := rfl
@[simp] theorem State.setScript_params (j : Nat) (ws : List CommandWord) : (s.setScript j ws).params = s.params := rfl
@[simp] theorem State.setScript_schedule (j : Nat) (ws : List CommandWord) : (s.setScript j ws).schedule = s.schedule := rfl
@[simp] theorem State.setScript_active (j : Nat) (ws : List CommandWord) : (s.setScript j ws).active = s.active := rfl
@[simp] theorem State.setScript_fresh (j : Nat) (ws : List CommandWord) : (s.setScript j ws).fresh = s.fresh := rfl

@[simp] theorem State.giveByte_init (j : Nat) (b : Byte) : (s.giveByte j b).init = s.init := rfl
@[simp] theorem State.giveByte_pinData (j : Nat) (b : Byte) : (s.giveByte j b).pinData = s.pinData := rfl
@[simp] theorem State.giveByte_pinClock (j : Nat) (b : Byte) : (s.giveByte j b).pinClock = s.pinClock := rfl
@[simp] theorem State.giveByte_pinLatch (j : Nat) (b : Byte) : (s.giveByte j b).pinLatch = s.pinLatch := rfl
@[simp] theorem State.giveByte_pulseDelay (j : Nat) (b : Byte) : (s.giveByte j b).pulseDelay = s.pulseDelay := rfl
@[simp] theorem State.giveByte_fault (j : Nat) (b : Byte) : (s.giveByte j b).fault = s.fault := rfl
@[simp] theorem State.giveByte_issuers (j : Nat) (b : Byte) : (s.giveByte j b).issuers = s.issuers.modify j fun i => { i with returned := i.returned ++ [b] } := rfl
@[simp] theorem State.giveByte_gpio (j : Nat) (b : Byte) : (s.giveByte j b).gpio = s.gpio := rfl
@[simp] theorem State.giveByte_chain (j : Nat) (b : Byte) : (s.giveByte j b).chain = s.chain := rfl
@[simp] theorem State.giveByte_trace (j : Nat) (b : Byte) : (s.giveByte j b).trace = s.trace := rfl
@[simp] theorem State.giveByte_faultInfo (j : Nat) (b : Byte) : (s.giveByte j b).faultInfo = s.faultInfo := rfl
@[simp] theorem State.giveByte_params (j : Nat) (b : Byte) : (s.giveByte j b).params = s.params := rfl
@[simp] theorem State.giveByte_schedule (j : Nat) (b : Byte) : (s.giveByte j b).schedule = s.schedule := rfl
@[simp] theorem State.giveByte_active (j : Nat) (b : Byte) : (s.giveByte j b).active = s.active := rfl
@[simp] theorem State.giveByte_fresh (j : Nat) (b : Byte) : (s.giveByte j b).fresh = s.fresh := rfl

@[simp] theorem State.cfgLine_init (p : PinId) : (s.cfgLine p).init = s.init := rfl
@[simp] theorem State.cfgLine_pinData (p : PinId) : (s.cfgLine p).pinData = s.pinData := rfl
@[simp] theorem State.cfgLine_pinClock (p : PinId) : (s.cfgLine p).pinClock = s.pinClock := rfl
@[simp] theorem State.cfgLine_pinLatch (p : PinId) : (s.cfgLine p).pinLatch = s.pinLatch := rfl
@[simp] theorem State.cfgLine_pulseDelay (p : PinId) : (s.cfgLine p).pulseDelay = s.pulseDelay := rfl
@[simp] theorem State.cfgLine_fault (p : PinId) : (s.cfgLine p).fault = s.fault := rfl
@[simp] theorem State.cfgLine_issuers (p : PinId) : (s.cfgLine p).issuers = s.issuers := rfl
@[simp] theorem State.cfgLine_gpio (p : PinId) : (s.cfgLine p).gpio = s.gpio.configure p := rfl
@[simp] theorem State.cfgLine_chain (p : PinId) : (s.cfgLine p).chain = s.chain := rfl
@[simp] theorem State.cfgLine_trace (p : PinId) : (s.cfgLine p).trace = s.trace ++ [.cfg p] := rfl
@[simp] theorem State.cfgLine_faultInfo (p : PinId) : (s.cfgLine p).faultInfo = s.faultInfo := rfl
@[simp] theorem State.cfgLine_params (p : PinId) : (s.cfgLine p).params = s.params := rfl
@[simp] theorem State.cfgLine_schedule (p : PinId) : (s.cfgLine p).schedule = s.schedule := rfl
@[simp] theorem State.cfgLine_active (p : PinId) : (s.cfgLine p).active = s.active := rfl
@[simp] theorem State.cfgLine_fresh (p : PinId) : (s.cfgLine p).fresh = s.fresh := rfl

@[simp] theorem State.drvLine_init (p : PinId) (b : Bool) : (s.drvLine p b).init = s.init := rfl
@[simp] theorem State.drvLine_pinData (p : PinId) (b : Bool) : (s.drvLine p b).pinData = s.pinData := rfl
@[simp] theorem State.drvLine_pinClock (p : PinId) (b : Bool) : (s.drvLine p b).pinClock = s.pinClock := rfl
@[simp] theorem State.drvLine_pinLatch (p : PinId) (b : Bool) : (s.drvLine p b).pinLatch = s.pinLatch := rfl
@[simp] theorem State.drvLine_pulseDelay (p : PinId) (b : Bool) : (s.drvLine p b).pulseDelay = s.pulseDelay := rfl
@[simp] theorem State.drvLine_fault (p : PinId) (b : Bool) : (s.drvLine p b).fault = s.fault := rfl
@[simp] theorem State.drvLine_issuers (p : PinId) (b : Bool) : (s.drvLine p b).issuers = s.issuers := rfl
@[simp] theorem State.drvLine_gpio (p : PinId) (b : Bool) : (s.drvLine p b).gpio = s.gpio.drive p b := rfl
@[simp] theorem State.drvLine_chain (p : PinId) (b : Bool) : (s.drvLine p b).chain = s.chain.react s.params.wires p (s.gpio.line p).level
    ((s.gpio.drive p b).line p).level ((s.gpio.drive p b).line s.params.wires.data).level := rfl
@[simp] theorem State.drvLine_trace (p : PinId) (b : Bool) : (s.drvLine p b).trace = s.trace ++ [.drv p b] := rfl
@[simp] theorem State.drvLine_faultInfo (p : PinId) (b : Bool) : (s.drvLine p b).faultInfo = s.faultInfo := rfl
@[simp] theorem State.drvLine_params (p : PinId) (b : Bool) : (s.drvLine p b).params = s.params := rfl
@[simp] theorem State.drvLine_schedule (p : PinId) (b : Bool) : (s.drvLine p b).schedule = s.schedule := rfl
@[simp] theorem State.drvLine_active (p : PinId) (b : Bool) : (s.drvLine p b).active = s.active := rfl
@[simp] theorem State.drvLine_fresh (p : PinId) (b : Bool) : (s.drvLine p b).fresh = s.fresh := rfl

@[simp] theorem State.raise_init (k : FaultCode) (v : FaultInfo) : (s.raise k v).init = s.init := rfl
@[simp] theorem State.raise_pinData (k : FaultCode) (v : FaultInfo) : (s.raise k v).pinData = s.pinData := rfl
@[simp] theorem State.raise_pinClock (k : FaultCode) (v : FaultInfo) : (s.raise k v).pinClock = s.pinClock := rfl
@[simp] theorem State.raise_pinLatch (k : FaultCode) (v : FaultInfo) : (s.raise k v).pinLatch = s.pinLatch := rfl
@[simp] theorem State.raise_pulseDelay (k : FaultCode) (v : FaultInfo) : (s.raise k v).pulseDelay = s.pulseDelay := rfl
@[simp] theorem State.raise_fault (k : FaultCode) (v : FaultInfo) : (s.raise k v).fault = k := rfl
@[simp] theorem State.raise_issuers (k : FaultCode) (v : FaultInfo) : (s.raise k v).issuers = s.issuers := rfl
@[simp] theorem State.raise_gpio (k : FaultCode) (v : FaultInfo) : (s.raise k v).gpio = s.gpio := rfl
@[simp] theorem State.raise_chain (k : FaultCode) (v : FaultInfo) : (s.raise k v).chain = s.chain := rfl
@[simp] theorem State.raise_trace (k : FaultCode) (v : FaultInfo) : (s.raise k v).trace = s.trace := rfl
@[simp] theorem State.raise_faultInfo (k : FaultCode) (v : FaultInfo) : (s.raise k v).faultInfo = v := rfl
@[simp] theorem State.raise_params (k : FaultCode) (v : FaultInfo) : (s.raise k v).params = s.params := rfl
@[simp] theorem State.raise_schedule (k : FaultCode) (v : FaultInfo) : (s.raise k v).schedule = s.schedule := rfl
@[simp] theorem State.raise_active (k : FaultCode) (v : FaultInfo) : (s.raise k v).active = s.active := rfl
@[simp] theorem State.raise_fresh (k : FaultCode) (v : FaultInfo) : (s.raise k v).fresh = s.fresh := rfl

@[simp] theorem State.optionalDelay_init (dv : Bool) (us : Delay) : (s.optionalDelay dv us).init = s.init := by cases dv <;> rfl
@[simp] theorem State.optionalDelay_pinData (dv : Bool) (us : Delay) : (s.optionalDelay dv us).pinData = s.pinData := by cases dv <;> rfl
@[simp] theorem State.optionalDelay_pinClock (dv : Bool) (us : Delay) : (s.optionalDelay dv us).pinClock = s.pinClock := by cases dv <;> rfl
@[simp] theorem State.optionalDelay_pinLatch (dv : Bool) (us : Delay) : (s.optionalDelay dv us).pinLatch = s.pinLatch := by cases dv <;> rfl
@[simp] theorem State.optionalDelay_pulseDelay (dv : Bool) (us : Delay) : (s.optionalDelay dv us).pulseDelay = if dv then us else s.pulseDelay := by cases dv <;> rfl
@[simp] theorem State.optionalDelay_fault (dv : Bool) (us : Delay) : (s.optionalDelay dv us).fault = s.fault := by cases dv <;> rfl
@[simp] theorem State.optionalDelay_issuers (dv : Bool) (us : Delay) : (s.optionalDelay dv us).issuers = s.issuers := by cases dv <;> rfl
@[simp] theorem State.optionalDelay_gpio (dv : Bool) (us : Delay) : (s.optionalDelay dv us).gpio = s.gpio := by cases dv <;> rfl
@[simp] theorem State.optionalDelay_chain (dv : Bool) (us : Delay) : (s.optionalDelay dv us).chain = s.chain := by cases dv <;> rfl
@[simp] theorem State.optionalDelay_trace (dv : Bool) (us : Delay) : (s.optionalDelay dv us).trace = s.trace := by cases dv <;> rfl
@[simp] theorem State.optionalDelay_faultInfo (dv : Bool) (us : Delay) : (s.optionalDelay dv us).faultInfo = s.faultInfo := by cases dv <;> rfl
@[simp] theorem State.optionalDelay_params (dv : Bool) (us : Delay) : (s.optionalDelay dv us).params = s.params := by cases dv <;> rfl
@[simp] theorem State.optionalDelay_schedule (dv : Bool) (us : Delay) : (s.optionalDelay dv us).schedule = s.schedule := by cases dv <;> rfl
@[simp] theorem State.optionalDelay_active (dv : Bool) (us : Delay) : (s.optionalDelay dv us).active = s.active := by cases dv <;> rfl
@[simp] theorem State.optionalDelay_fresh (dv : Bool) (us : Delay) : (s.optionalDelay dv us).fresh = s.fresh := by cases dv <;> rfl

@[simp] theorem State.resetEvent_init : s.resetEvent.init = false := rfl
@[simp] theorem State.resetEvent_pinData : s.resetEvent.pinData = .x := rfl
@[simp] theorem State.resetEvent_pinClock : s.resetEvent.pinClock = .x := rfl
@[simp] theorem State.resetEvent_pinLatch : s.resetEvent.pinLatch = .x := rfl
@[simp] theorem State.resetEvent_pulseDelay : s.resetEvent.pulseDelay = Config.defaultPulseDelay := rfl
@[simp] theorem State.resetEvent_fault : s.resetEvent.fault = .none := rfl
@[simp] theorem State.resetEvent_issuers : s.resetEvent.issuers = s.issuers.map fun i => Issuer.start i.script := rfl
@[simp] theorem State.resetEvent_gpio : s.resetEvent.gpio = [] := rfl
@[simp] theorem State.resetEvent_chain : s.resetEvent.chain = ⟨Cells.allX, Cells.allX⟩ := rfl
@[simp] theorem State.resetEvent_trace : s.resetEvent.trace = [] := rfl
@[simp] theorem State.resetEvent_faultInfo : s.resetEvent.faultInfo = .none := rfl
@[simp] theorem State.resetEvent_params : s.resetEvent.params = s.params := rfl
@[simp] theorem State.resetEvent_schedule : s.resetEvent.schedule = s.schedule := rfl
@[simp] theorem State.resetEvent_active : s.resetEvent.active = 0 := rfl
@[simp] theorem State.resetEvent_fresh : s.resetEvent.fresh = s.fresh := rfl

end Sys2Proof.Machine
end

