-- ==== Sys2Proof/Laws/Issue.lean ====
section
/-! SUPPORT. The gate every command passes at issue, and what each command's meaning can answer (spec/10_state.md R16),
said once. -/

namespace Sys2Proof.Machine

theorem State.halted_eq_false (s : State) : s.halted = false ↔ s.fault = .none := by
  simp [State.halted]

theorem State.halted_eq_true (s : State) : s.halted = true ↔ s.fault ≠ .none := by
  simp [State.halted]

@[simp] theorem andThen_next (s : State) (f : State → Result) : andThen (.next s) f = f s := rfl
@[simp] theorem andThen_fault (e : Fault) (f : State → Result) : andThen (.fault e) f = .fault e := rfl
@[simp] theorem andThen_refused (e : Refusal) (f : State → Result) : andThen (.refused e) f = .refused e := rfl

theorem andThen_eq_next {r : Result} {f : State → Result} {t : State} (h : andThen r f = .next t) :
    ∃ m, r = .next m ∧ f m = .next t := by
  cases r with
  | next m => exact ⟨m, rfl, h⟩
  | fault e => simp at h
  | refused e => simp at h

theorem andThen_eq_fault {r : Result} {f : State → Result} {e : Fault} (h : andThen r f = .fault e) :
    r = .fault e ∨ ∃ m, r = .next m ∧ f m = .fault e := by
  cases r with
  | next m => exact .inr ⟨m, rfl, h⟩
  | fault e' => simp at h; exact .inl (by rw [h])
  | refused e => simp at h

theorem andThen_eq_refused {r : Result} {f : State → Result} {e : Refusal} (h : andThen r f = .refused e) :
    r = .refused e ∨ ∃ m, r = .next m ∧ f m = .refused e := by
  cases r with
  | next m => exact .inr ⟨m, rfl, h⟩
  | fault e' => simp at h
  | refused e' => simp at h; exact .inl (by rw [h])

theorem State.seqAt_eq_some {s : State} {j : Nat} {c : Cursor} (h : s.seqAt j = some c) :
    ∃ i, s.issuers[j]? = some i ∧ i.seq = c := by
  simpa [State.seqAt] using h

theorem State.seqAt_of_getElem? {s : State} {j : Nat} {i : Issuer} (h : s.issuers[j]? = some i) :
    s.seqAt j = some i.seq := by
  simp [State.seqAt, h]

/-- Where `Issue` is enabled the gate lets the command through. -/
theorem issue_of_canIssue (s : State) (f : State → Result) (h : s.canIssue) : issue s f = f s := by
  obtain ⟨hf, hs⟩ := h
  obtain ⟨i, hi, hq⟩ := State.seqAt_eq_some hs
  simp [issue, (State.halted_eq_false s).2 hf, hi, hq]

/-- Nothing is accepted while halted. -/
theorem issue_of_halted (s : State) (f : State → Result) (h : s.fault ≠ .none) : issue s f = .fault (.halted s.fault) := by
  simp [issue, (State.halted_eq_true s).2 h]

/-- An issuer whose own cursor is `Run` is turned away. -/
theorem issue_of_busy (s : State) (f : State → Result) (c : Command) (k : Nat) (hf : s.fault = .none)
    (hs : s.seqAt s.active = some (.run c k)) : issue s f = .refused .issuerBusy := by
  obtain ⟨i, hi, hq⟩ := State.seqAt_eq_some hs
  simp [issue, (State.halted_eq_false s).2 hf, hi, hq]

/-- The gate answers a next state only for an enabled `Issue`. -/
theorem issue_eq_next {s t : State} {f : State → Result} (h : issue s f = .next t) : s.canIssue ∧ f s = .next t := by
  unfold issue at h
  split at h
  · cases h
  · next hh =>
    rw [Bool.not_eq_true, State.halted_eq_false] at hh
    split at h
    · cases h
    · next i hi =>
      split at h
      · next hq => exact ⟨⟨hh, by rw [State.seqAt_of_getElem? hi, hq]⟩, h⟩
      · cases h

/-- A command's issue is one of six: accepted INITIALISE, accepted WRITEDIGIT, its two faults, DIGITS in and out of
range. -/
theorem exec_command_eq_next {s t : State} {i : Instr} (hw : i.wf = true) (h : exec i s = .next t) :
    s.canIssue ∧
      ((∃ d c l dv us, i = .initialise d c l dv us ∧ t = s.setSeq s.active (.run (.initialise d c l dv us) 0)) ∨
        (∃ p pat, i = .writeDigit p pat ∧ s.init = false ∧ t = s.raise .notInitialised .none) ∨
        (∃ p pat, i = .writeDigit p pat ∧ s.init = true ∧ positionInRange p = false ∧
          t = s.raise .positionRange (.position p)) ∨
        (∃ p pat, i = .writeDigit p pat ∧ s.init = true ∧ positionInRange p = true ∧
          t = s.setSeq s.active (.run (.writeDigit (frameOf p pat)) 0)) ∨
        (∃ x b, i = .digits x ∧ tableAt s.params x = some b ∧ t = s.giveByte s.active b) ∨
        (∃ x, i = .digits x ∧ tableAt s.params x = none ∧
          t = (s.giveByte s.active (Config.freeByte s.fresh)).tick)) := by
  cases i with
  | initialise d c l dv us =>
    simp only [exec, execInitialise] at h
    obtain ⟨hc, hn⟩ := issue_eq_next h
    cases hn
    exact ⟨hc, .inl ⟨d, c, l, dv, us, rfl, rfl⟩⟩
  | writeDigit p pat =>
    simp only [exec, execWriteDigit] at h
    obtain ⟨hc, hn⟩ := issue_eq_next h
    refine ⟨hc, .inr ?_⟩
    split at hn
    · next hi => cases hn; exact .inl ⟨p, pat, rfl, hi, rfl⟩
    · next hi =>
      rw [Bool.not_eq_false] at hi
      split at hn
      · next hp => cases hn; exact .inr (.inl ⟨p, pat, rfl, hi, hp, rfl⟩)
      · next hp =>
        rw [Bool.not_eq_false] at hp
        cases hn
        exact .inr (.inr (.inl ⟨p, pat, rfl, hi, hp, rfl⟩))
  | digits x =>
    simp only [exec, execDigits] at h
    obtain ⟨hc, hn⟩ := issue_eq_next h
    refine ⟨hc, .inr (.inr (.inr (.inr ?_)))⟩
    split at hn
    · next b hb => cases hn; exact .inl ⟨x, b, rfl, hb, rfl⟩
    · next hb => cases hn; exact .inr ⟨x, rfl, hb, rfl⟩
  | shiftOut b => simp [Instr.wf] at hw
  | pulse l => simp [Instr.wf] at hw

end Sys2Proof.Machine
end

