-- ==== Sys2Proof/Laws/MicroOp.lean ====
section
/-! SUPPORT. What one micro-operation can do (spec/10_state.md R19), and what the micro-operation lists of the
Shift-Register Bus do (spec/41_shift_register_bus.md R75, R76), said once. -/

namespace Sys2Proof.Machine

theorem State.SameRegisters.refl (s : State) : s.SameRegisters s := by constructor <;> rfl

theorem State.SameRegisters.trans {s t u : State} (h : s.SameRegisters t) (h' : t.SameRegisters u) :
    s.SameRegisters u := by
  obtain ⟨a1, a2, a3, a4, a5, a6, a7, a8, a9, a10⟩ := h
  obtain ⟨b1, b2, b3, b4, b5, b6, b7, b8, b9, b10⟩ := h'
  constructor <;> simp_all

theorem State.SameRegisters.pinReg {s t : State} (h : s.SameRegisters t) (r : Role) : t.pinReg r = s.pinReg r := by
  cases r <;> simp [State.pinReg, h.pinData, h.pinClock, h.pinLatch]

theorem State.cfgLine_sameRegisters (s : State) (p : PinId) : s.SameRegisters (s.cfgLine p) := by
  constructor <;> rfl

theorem State.drvLine_sameRegisters (s : State) (p : PinId) (b : Bool) : s.SameRegisters (s.drvLine p b) := by
  constructor <;> rfl

theorem State.log_sameRegisters (s : State) (e : Event) : s.SameRegisters (s.log e) := by
  constructor <;> rfl

theorem execMicroOp_cfg {s : State} {r : Role} {p : PinId} (h : s.pinReg r = .pin p) :
    execMicroOp (.cfg r) s = .next (s.cfgLine p) := by
  simp [execMicroOp, withPin, h]

theorem execMicroOp_drv {s : State} {r : Role} {p : PinId} (b : Bool) (h : s.pinReg r = .pin p) :
    execMicroOp (.drv r b) s = .next (s.drvLine p b) := by
  simp [execMicroOp, withPin, h]

theorem execMicroOp_wait (s : State) : execMicroOp .wait s = .next (s.log (.wait s.pulseDelay)) := rfl

/-- A micro-operation with a next state is one of six. -/
theorem execMicroOp_eq_next {u : MicroOp} {s t : State} (h : execMicroOp u s = .next t) :
    (∃ d c l, u = .assignPins d c l ∧ t = s.setPins d c l) ∨
      (∃ r p, u = .cfg r ∧ s.pinReg r = .pin p ∧ t = s.cfgLine p) ∨
      (∃ r b p, u = .drv r b ∧ s.pinReg r = .pin p ∧ t = s.drvLine p b) ∨
      (u = .wait ∧ t = s.log (.wait s.pulseDelay)) ∨
      (∃ dv us, u = .delay dv us ∧ t = s.optionalDelay dv us) ∨
      (u = .setInit ∧ t = s.setInit) := by
  cases u with
  | assignPins d c l => cases h; exact .inl ⟨d, c, l, rfl, rfl⟩
  | cfg r =>
    simp only [execMicroOp, withPin] at h
    split at h
    · cases h
    · next p hp => cases h; exact .inr (.inl ⟨r, p, rfl, hp, rfl⟩)
  | drv r b =>
    simp only [execMicroOp, withPin] at h
    split at h
    · cases h
    · next p hp => cases h; exact .inr (.inr (.inl ⟨r, b, p, rfl, hp, rfl⟩))
  | wait => cases h; exact .inr (.inr (.inr (.inl ⟨rfl, rfl⟩)))
  | delay dv us => cases h; exact .inr (.inr (.inr (.inr (.inl ⟨dv, us, rfl, rfl⟩))))
  | setInit => cases h; exact .inr (.inr (.inr (.inr (.inr ⟨rfl, rfl⟩))))

/-- A micro-operation never faults. -/
theorem execMicroOp_ne_fault (u : MicroOp) (s : State) (e : Fault) : execMicroOp u s ≠ .fault e := by
  cases u <;> simp only [execMicroOp, withPin] <;> (try split) <;> simp

/-- A micro-operation leaves everything but the block's registers, lines, chain and trace. -/
theorem execMicroOp_frame {u : MicroOp} {s t : State} (h : execMicroOp u s = .next t) :
    t.issuers = s.issuers ∧ t.schedule = s.schedule ∧ t.params = s.params ∧ t.active = s.active ∧
      t.fresh = s.fresh ∧ t.fault = s.fault ∧ t.faultInfo = s.faultInfo := by
  rcases execMicroOp_eq_next h with ⟨d, c, l, -, rfl⟩ | ⟨r, p, -, -, rfl⟩ | ⟨r, b, p, -, -, rfl⟩ | ⟨-, rfl⟩ |
    ⟨dv, us, -, rfl⟩ | ⟨-, rfl⟩ <;> simp

/-- The state with other issuers and another schedule. -/
def State.rebook (is : List Issuer) (ts : List Turn) (s : State) : State := (s.setIssuers is).setSchedule ts

/-- A micro-operation does the same whatever the cursors and the schedule are. -/
theorem execMicroOp_rebook (u : MicroOp) (s : State) (is : List Issuer) (ts : List Turn) :
    execMicroOp u (s.rebook is ts) = andThen (execMicroOp u s) fun t => .next (t.rebook is ts) := by
  cases u with
  | assignPins d c l => rfl
  | cfg r =>
    cases r <;> simp only [execMicroOp, withPin, State.pinReg, State.rebook, State.setSchedule_pinData,
      State.setSchedule_pinClock, State.setSchedule_pinLatch, State.setIssuers_pinData, State.setIssuers_pinClock,
      State.setIssuers_pinLatch] <;> split <;> simp_all <;> rfl
  | drv r b =>
    cases r <;> simp only [execMicroOp, withPin, State.pinReg, State.rebook, State.setSchedule_pinData,
      State.setSchedule_pinClock, State.setSchedule_pinLatch, State.setIssuers_pinData, State.setIssuers_pinClock,
      State.setIssuers_pinLatch] <;> split <;> simp_all <;> rfl
  | wait => rfl
  | delay dv us => cases dv <;> rfl
  | setInit => rfl

@[simp] theorem execMicroOps_nil (s : State) : execMicroOps [] s = .next s := rfl

@[simp] theorem execMicroOps_cons (u : MicroOp) (us : List MicroOp) (s : State) :
    execMicroOps (u :: us) s = andThen (execMicroOp u s) (execMicroOps us) := rfl

theorem execMicroOps_append (us vs : List MicroOp) (s : State) :
    execMicroOps (us ++ vs) s = andThen (execMicroOps us s) (execMicroOps vs) := by
  induction us generalizing s with
  | nil => rfl
  | cons u us ih =>
    simp only [List.cons_append, execMicroOps_cons]
    cases execMicroOp u s with
    | next m => exact ih m
    | fault e => rfl
    | refused e => rfl

/-- A list of micro-operations does the same whatever the cursors and the schedule are. -/
theorem execMicroOps_rebook (us : List MicroOp) (s : State) (is : List Issuer) (ts : List Turn) :
    execMicroOps us (s.rebook is ts) = andThen (execMicroOps us s) fun t => .next (t.rebook is ts) := by
  induction us generalizing s with
  | nil => rfl
  | cons u us ih =>
    simp only [execMicroOps_cons, execMicroOp_rebook]
    cases execMicroOp u s with
    | next m => exact ih m
    | fault e => rfl
    | refused e => rfl

theorem execMicroOps_frame {us : List MicroOp} {s t : State} (h : execMicroOps us s = .next t) :
    t.issuers = s.issuers ∧ t.schedule = s.schedule ∧ t.params = s.params ∧ t.active = s.active ∧
      t.fresh = s.fresh ∧ t.fault = s.fault ∧ t.faultInfo = s.faultInfo := by
  induction us generalizing s with
  | nil => cases h; simp
  | cons u us ih =>
    obtain ⟨m, hm, ht⟩ := andThen_eq_next h
    have h1 := execMicroOp_frame hm
    have h2 := ih ht
    simp [h1, h2]

/-- What a list of drives and waits leaves alone: the registers, the cursors and the schedule. -/
structure State.BusFrame (s t : State) : Prop where
  regs : s.SameRegisters t
  issuers : t.issuers = s.issuers
  schedule : t.schedule = s.schedule
  /-- a configured line stays configured -/
  mode : ∀ q, (s.gpio.line q).mode = .output → (t.gpio.line q).mode = .output

theorem State.BusFrame.refl (s : State) : s.BusFrame s := ⟨.refl s, rfl, rfl, fun _ h => h⟩

theorem State.BusFrame.trans {s t u : State} (h : s.BusFrame t) (h' : t.BusFrame u) : s.BusFrame u :=
  ⟨h.regs.trans h'.regs, h'.issuers.trans h.issuers, h'.schedule.trans h.schedule, fun q hq => h'.mode q (h.mode q hq)⟩

theorem State.drvLine_busFrame (s : State) (p : PinId) (b : Bool) : s.BusFrame (s.drvLine p b) := by
  refine ⟨s.drvLine_sameRegisters p b, rfl, rfl, fun q hq => ?_⟩
  by_cases hqp : q = p
  · subst hqp; simp [Gpio.line_drive_self s.gpio q b hq]
  · simp [Gpio.line_drive_other s.gpio p q b hqp, hq]

theorem State.log_busFrame (s : State) (e : Event) : s.BusFrame (s.log e) :=
  ⟨s.log_sameRegisters e, rfl, rfl, fun _ h => h⟩

/-- PULSE on a pin, as one state. -/
def State.pulseOn (q : PinId) (s : State) : State :=
  ((s.drvLine q true).log (.wait s.pulseDelay)).drvLine q false

theorem execMicroOps_pulse {s : State} {r : Role} {q : PinId} (h : s.pinReg r = .pin q) :
    execMicroOps (pulseOps r) s = .next (s.pulseOn q) := by
  have h1 : (s.drvLine q true).pinReg r = .pin q := by rw [(s.drvLine_sameRegisters q true).pinReg, h]
  have h2 : ((s.drvLine q true).log (.wait s.pulseDelay)).pinReg r = .pin q := by
    rw [((s.drvLine q true).log_sameRegisters _).pinReg, h1]
  simp only [pulseOps, execMicroOps_cons, execMicroOp_drv true h, andThen_next, execMicroOp_wait,
    State.drvLine_pulseDelay, execMicroOp_drv false h2, execMicroOps_nil]
  rfl

theorem State.pulseOn_busFrame (s : State) (q : PinId) : s.BusFrame (s.pulseOn q) :=
  ((s.drvLine_busFrame q true).trans (State.log_busFrame _ _)).trans (State.drvLine_busFrame _ q false)

theorem State.pulseOn_trace (s : State) (q : PinId) :
    (s.pulseOn q).trace = s.trace ++ pulseEvents q s.pulseDelay := by
  simp [State.pulseOn, pulseEvents]

theorem State.pulseOn_line_other (s : State) (q r : PinId) (h : r ≠ q) :
    (s.pulseOn q).gpio.line r = s.gpio.line r := by
  simp [State.pulseOn, Gpio.line_drive_other _ q r _ h]

theorem State.pulseOn_line_self (s : State) (q : PinId) (h : (s.gpio.line q).mode = .output) :
    (s.pulseOn q).gpio.line q = ⟨.output, .low⟩ := by
  have h1 : ((s.gpio.drive q true).line q).mode = .output := by rw [Gpio.line_drive_self _ q true h]
  simp [State.pulseOn, Gpio.line_drive_self _ q false h1, Level.ofBool]

/-- A pulse on a pin the chain neither is clocked nor latched by leaves the chain. -/
theorem State.pulseOn_chain_unwired (s : State) (q : PinId) (hc : q ≠ s.params.wires.clock)
    (hl : q ≠ s.params.wires.latch) : (s.pulseOn q).chain = s.chain := by
  simp [State.pulseOn, Chain.react_unwired, hc, hl]

/-- A pulse on a configured line raises it from its level and lets it fall: the chain sees the rise alone. -/
theorem State.pulseOn_chain (s : State) (q : PinId) (h : (s.gpio.line q).mode = .output)
    (hd : q ≠ s.params.wires.data) :
    (s.pulseOn q).chain =
      s.chain.react s.params.wires q (s.gpio.line q).level .high (s.gpio.line s.params.wires.data).level := by
  have h1 : ((s.gpio.drive q true).line q).mode = .output := by rw [Gpio.line_drive_self _ q true h]
  simp only [State.pulseOn, State.drvLine_chain, State.log_chain, State.log_gpio, State.drvLine_gpio, State.log_params,
    State.drvLine_params, Gpio.line_drive_self _ q true h, Gpio.line_drive_self _ q false h1,
    Gpio.line_drive_other _ q _ _ (Ne.symm hd)]
  rw [Chain.react_not_high _ _ _ _ _ _ (by simp [Level.ofBool])]
  rfl

/-- One bit cell, as one state. -/
def State.cellOn (d c : PinId) (b : Bool) (s : State) : State := (s.drvLine d b).pulseOn c

theorem execMicroOps_cell {s : State} {d c : PinId} (b : Bool) (hd : s.pinData = .pin d) (hc : s.pinClock = .pin c) :
    execMicroOps (cellOps b) s = .next (s.cellOn d c b) := by
  have hd' : s.pinReg .data = .pin d := hd
  have hc' : (s.drvLine d b).pinReg .clock = .pin c := hc
  simp only [cellOps, execMicroOps_cons, execMicroOp_drv b hd', andThen_next, execMicroOps_pulse hc']
  rfl

theorem State.cellOn_busFrame (s : State) (d c : PinId) (b : Bool) : s.BusFrame (s.cellOn d c b) :=
  (s.drvLine_busFrame d b).trans (State.pulseOn_busFrame _ c)

/-- Bit cells in order, as one state. -/
def State.cellsOn (d c : PinId) : List Bool → State → State
  | [], s => s
  | b :: bs, s => State.cellsOn d c bs (s.cellOn d c b)

theorem State.cellsOn_busFrame (s : State) (d c : PinId) (bs : List Bool) : s.BusFrame (s.cellsOn d c bs) := by
  induction bs generalizing s with
  | nil => exact .refl s
  | cons b bs ih => exact (s.cellOn_busFrame d c b).trans (ih _)

theorem execMicroOps_cells {s : State} {d c : PinId} (bs : List Bool) (hd : s.pinData = .pin d)
    (hc : s.pinClock = .pin c) : execMicroOps (cellsOps bs) s = .next (s.cellsOn d c bs) := by
  induction bs generalizing s with
  | nil => rfl
  | cons b bs ih =>
    have hf := (s.cellOn_busFrame d c b).regs
    have : cellsOps (b :: bs) = cellOps b ++ cellsOps bs := rfl
    rw [this, execMicroOps_append, execMicroOps_cell b hd hc, andThen_next,
      ih (by rw [hf.pinData, hd]) (by rw [hf.pinClock, hc])]
    rfl

theorem State.cellsOn_trace (s : State) (d c : PinId) (bs : List Bool) :
    (s.cellsOn d c bs).trace = s.trace ++ bs.flatMap (cellEvents d c s.pulseDelay) := by
  induction bs generalizing s with
  | nil => simp [State.cellsOn]
  | cons b bs ih =>
    have hf := (s.cellOn_busFrame d c b).regs
    rw [State.cellsOn, ih, hf.pulseDelay]
    simp [State.cellOn, State.pulseOn_trace, cellEvents]

theorem State.cellsOn_line_other (s : State) (d c r : PinId) (bs : List Bool) (hd : r ≠ d) (hc : r ≠ c) :
    (s.cellsOn d c bs).gpio.line r = s.gpio.line r := by
  induction bs generalizing s with
  | nil => rfl
  | cons b bs ih =>
    rw [State.cellsOn, ih, State.cellOn, State.pulseOn_line_other _ c r hc, State.drvLine_gpio,
      Gpio.line_drive_other _ d r b hd]

/-- After at least one cell on distinct configured lines the clock line is low and the data line holds the last bit. -/
theorem State.cellsOn_lines (s : State) (d c : PinId) (bs : List Bool) (b : Bool) (h : d ≠ c)
    (hd : (s.gpio.line d).mode = .output) (hc : (s.gpio.line c).mode = .output) :
    (s.cellsOn d c (bs ++ [b])).gpio.line c = ⟨.output, .low⟩ ∧
      (s.cellsOn d c (bs ++ [b])).gpio.line d = ⟨.output, Level.ofBool b⟩ := by
  induction bs generalizing s with
  | nil =>
    refine ⟨State.pulseOn_line_self _ c ?_, ?_⟩
    · exact (s.drvLine_busFrame d b).mode c hc
    · rw [List.nil_append, State.cellsOn, State.cellsOn, State.cellOn, State.pulseOn_line_other _ c d h,
        State.drvLine_gpio, Gpio.line_drive_self _ d b hd]
  | cons x bs ih => exact ih _ ((s.cellOn_busFrame d c x).mode d hd) ((s.cellOn_busFrame d c x).mode c hc)

/-- Cells on pins the chain is neither clocked nor latched by leave the chain. -/
theorem State.cellsOn_chain_unwired (s : State) (d c : PinId) (bs : List Bool)
    (h : ∀ q, q = d ∨ q = c → q ≠ s.params.wires.clock ∧ q ≠ s.params.wires.latch) :
    (s.cellsOn d c bs).chain = s.chain := by
  induction bs generalizing s with
  | nil => rfl
  | cons b bs ih =>
    have hp : (s.cellOn d c b).params = s.params := (s.cellOn_busFrame d c b).regs.params
    rw [State.cellsOn, ih _ (by rw [hp]; exact h), State.cellOn,
      State.pulseOn_chain_unwired (s.drvLine d b) c (h c (.inr rfl)).1 (h c (.inr rfl)).2, State.drvLine_chain,
      Chain.react_unwired _ _ _ _ _ _ (h d (.inl rfl)).1 (h d (.inl rfl)).2]

/-- Cells leave the outputs when neither pin is the wired latch pin. -/
theorem State.cellsOn_out (s : State) (d c : PinId) (bs : List Bool) (hd : d ≠ s.params.wires.latch)
    (hc : c ≠ s.params.wires.latch) : (s.cellsOn d c bs).chain.out = s.chain.out := by
  have drv_out : ∀ (u : State) (p : PinId) (b : Bool), p ≠ u.params.wires.latch →
      (u.drvLine p b).chain.out = u.chain.out := by
    intro u p b hp
    by_contra hne
    exact hp (Chain.react_out _ _ _ _ _ _ hne).1
  induction bs generalizing s with
  | nil => rfl
  | cons b bs ih =>
    have hp : (s.cellOn d c b).params = s.params := (s.cellOn_busFrame d c b).regs.params
    rw [State.cellsOn, ih _ (by rw [hp]; exact hd) (by rw [hp]; exact hc), State.cellOn, State.pulseOn,
      drv_out _ c false (by simpa using hc)]
    simp only [State.log_chain]
    rw [drv_out _ c true (by simpa using hc), drv_out _ d b hd]

/-- Cells with the roles as wired: each shifts its bit in, and the chain is ready for the next. -/
theorem State.cellsOn_wired (s : State) (bs : List Bool) (h : s.chainReady) :
    let w := s.params.wires
    (s.cellsOn w.data w.clock bs).chainReady ∧
      (s.cellsOn w.data w.clock bs).chain =
        ⟨bs.foldl (fun v b => v.shiftIn (Level.ofBool b)) s.chain.sr, s.chain.out⟩ := by
  induction bs generalizing s with
  | nil => exact ⟨h, rfl⟩
  | cons b bs ih =>
    obtain ⟨hw, hdist, hc, hl, hd⟩ := h
    have hne := hdist
    simp only [Wires.distinct, Bool.and_eq_true, bne_iff_ne, ne_eq] at hne
    obtain ⟨⟨hdc, hdl⟩, hcl⟩ := hne
    have hf := s.cellOn_busFrame s.params.wires.data s.params.wires.clock b
    have hp := hf.regs.params
    have hcm : ((s.drvLine s.params.wires.data b).gpio.line s.params.wires.clock) = ⟨.output, .low⟩ := by
      rw [State.drvLine_gpio, Gpio.line_drive_other _ _ _ b (Ne.symm hdc), hc]
    have hready : (s.cellOn s.params.wires.data s.params.wires.clock b).chainReady := by
      refine ⟨⟨?_, ?_, ?_⟩, ?_, ?_, ?_, ?_⟩
      · rw [hf.regs.pinData, hp, hw.1]
      · rw [hf.regs.pinClock, hp, hw.2.1]
      · rw [hf.regs.pinLatch, hp, hw.2.2]
      · rw [hp, hdist]
      · rw [State.lineLow, hp, State.cellOn, State.pulseOn_line_self _ _ (by rw [hcm])]
      · rw [State.lineLow, hp, State.cellOn, State.pulseOn_line_other _ _ _ (Ne.symm hcl), State.drvLine_gpio,
          Gpio.line_drive_other _ _ _ b (Ne.symm hdl), hl]
      · rw [hp]; exact hf.mode _ hd
    have hchain : (s.cellOn s.params.wires.data s.params.wires.clock b).chain =
        ⟨s.chain.sr.shiftIn (Level.ofBool b), s.chain.out⟩ := by
      have h1 := State.pulseOn_chain (s.drvLine s.params.wires.data b) s.params.wires.clock (by rw [hcm])
        (by simpa using Ne.symm hdc)
      rw [State.cellOn, h1, hcm, State.drvLine_params, Chain.react_clock _ _ _ _ _ hcl, State.drvLine_gpio,
        Gpio.line_drive_self _ _ b hd, State.drvLine_chain, Chain.react_unwired _ _ _ _ _ _ hdc hdl]
      rfl
    have := ih _ hready
    rw [hp, hchain] at this
    exact this

end Sys2Proof.Machine
end

