-- ==== Sys2Proof/Laws/PerInstr.lean ====
section
/-! SUPPORT. Statements made per operation, one lemma per constructor of Instr: a command's word matches its row of
spec/opcode_table.json under the row's mask (spec/30_encoding.md R56 to R58), and exactly the commands have a word and
a row (R62). -/

namespace Sys2Proof.Laws.CommandRow

/-- An operation has a word exactly when it is a command, and its word matches its row under the row's mask. -/
def Statement (i : Instr) : Prop :=
  (encode i).isSome = i.wf ∧ (rowMatchMask i).isSome = i.wf ∧
    ∀ w m k, encode i = some w → rowMatchMask i = some (m, k) → w &&& k = m

theorem initialise (d c l : PinId) (dv : Bool) (us : Delay) : Statement (.initialise d c l dv us) := by
  refine ⟨rfl, rfl, ?_⟩
  intro w m k hw hm
  cases hw
  cases hm
  apply BitVec.eq_of_getLsbD_eq
  intro i hi
  interval_cases i <;> simp [fieldAt]

theorem writeDigit (p pat : Byte) : Statement (.writeDigit p pat) := by
  refine ⟨rfl, rfl, ?_⟩
  intro w m k hw hm
  cases hw
  cases hm
  apply BitVec.eq_of_getLsbD_eq
  intro i hi
  interval_cases i <;> simp [fieldAt]

theorem digits (x : Byte) : Statement (.digits x) := by
  refine ⟨rfl, rfl, ?_⟩
  intro w m k hw hm
  cases hw
  cases hm
  apply BitVec.eq_of_getLsbD_eq
  intro i hi
  interval_cases i <;> simp [fieldAt]

theorem shiftOut (b : Byte) : Statement (.shiftOut b) :=
  ⟨rfl, rfl, by intro w m k hw; cases hw⟩

theorem pulse (l : PulseLine) : Statement (.pulse l) :=
  ⟨rfl, rfl, by intro w m k hw; cases hw⟩

end Sys2Proof.Laws.CommandRow
end

