-- ==== Sys2Proof/Laws/Step.lean ====
section
/-! SUPPORT. What one step can do (spec/10_state.md R16), said once, and the run of a command in flight when no other
issuer moves (spec/20_memory.md R41, R43). -/

namespace Sys2Proof.Machine

/-- What is left of the choice of a turn before a transition acts: a turn is taken off the schedule, or nothing is
scheduled and perhaps a free value was drawn. -/
def State.TurnTaken (s s' : State) : Prop :=
  s' = s ∨ s' = s.tick ∨ ∃ j ts, s.schedule = .issuer j :: ts ∧ s' = s.setSchedule ts

/-- Taking a turn leaves everything but the schedule and the free values' counter. -/
theorem State.TurnTaken.frame {s s' : State} (h : s.TurnTaken s') :
    s'.init = s.init ∧ s'.pinData = s.pinData ∧ s'.pinClock = s.pinClock ∧ s'.pinLatch = s.pinLatch ∧
      s'.pulseDelay = s.pulseDelay ∧ s'.fault = s.fault ∧ s'.faultInfo = s.faultInfo ∧ s'.issuers = s.issuers ∧
      s'.gpio = s.gpio ∧ s'.chain = s.chain ∧ s'.trace = s.trace ∧ s'.params = s.params ∧ s'.active = s.active := by
  rcases h with rfl | rfl | ⟨j, ts, -, rfl⟩ <;> simp

theorem readyFrom_mem {j k : Nat} {is : List Issuer} (h : j ∈ readyFrom k is) :
    ∃ i, is[j - k]? = some i ∧ i.ready = true ∧ k ≤ j := by
  induction is generalizing k with
  | nil => simp [readyFrom] at h
  | cons x xs ih =>
    simp only [readyFrom] at h
    by_cases hx : x.ready = true
    · simp only [hx, if_true, List.mem_cons] at h
      rcases h with rfl | h
      · exact ⟨x, by simp, hx, le_refl _⟩
      · obtain ⟨i, hi, hr, hk⟩ := ih h
        exact ⟨i, by rw [show j - k = (j - (k + 1)) + 1 by omega]; simpa using hi, hr, by omega⟩
    · simp only [hx] at h
      obtain ⟨i, hi, hr, hk⟩ := ih h
      exact ⟨i, by rw [show j - k = (j - (k + 1)) + 1 by omega]; simpa using hi, hr, by omega⟩

theorem readyFrom_eq_nil {k : Nat} {is : List Issuer} : readyFrom k is = [] ↔ ∀ i ∈ is, i.ready = false := by
  induction is generalizing k with
  | nil => simp [readyFrom]
  | cons x xs ih =>
    by_cases hx : x.ready = true
    · simp [readyFrom, hx]
    · simp [readyFrom, hx, ih]

/-- A step is a Reset, an idle step or the stuck fault, or the transition of an issuer after the turn is taken. -/
theorem step_cases (s : State) :
    (∃ ts, s.schedule = .reset :: ts ∧ step s = .next (s.setSchedule ts).resetEvent) ∨
      (s.resetNext = false ∧ s.schedule = [] ∧ (∀ i ∈ s.issuers, i.ready = false) ∧
        step s = if s.halted then .fault (.halted s.fault) else .next s) ∨
      (s.resetNext = false ∧ ∃ j s', s.TurnTaken s' ∧ step s = advance j s' ∧
        (s.schedule = [] → ∃ i, s.issuers[j]? = some i ∧ i.ready = true)) := by
  unfold step transition
  cases hs : s.schedule with
  | cons turn ts =>
    cases turn with
    | reset => exact .inl ⟨ts, rfl, rfl⟩
    | issuer j =>
      exact .inr (.inr ⟨by simp [State.resetNext, hs], j, s.setSchedule ts, .inr (.inr ⟨j, ts, hs, rfl⟩), rfl, by simp⟩)
  | nil =>
    have hr : s.resetNext = false := by simp [State.resetNext, hs]
    cases hrd : readyFrom 0 s.issuers with
    | nil => exact .inr (.inl ⟨hr, rfl, readyFrom_eq_nil.1 hrd, rfl⟩)
    | cons j js =>
      have ready : ∀ k ∈ readyFrom 0 s.issuers, ∃ i, s.issuers[k]? = some i ∧ i.ready = true := by
        intro k hk
        obtain ⟨i, hi, hir, -⟩ := readyFrom_mem hk
        exact ⟨i, by simpa using hi, hir⟩
      cases js with
      | nil => exact .inr (.inr ⟨hr, j, s, .inl rfl, rfl, fun _ => ready j (by simp [hrd])⟩)
      | cons j' js =>
        refine .inr (.inr ⟨hr, _, s.tick, .inr (.inl rfl), rfl, fun _ => ready _ ?_⟩)
        rw [hrd, List.getD_eq_getElem?_getD]
        have hlt : Config.freeTurn s.fresh % ((j' :: js).length + 1) < (j :: j' :: js).length :=
          Nat.mod_lt _ (by simp)
        rw [List.getElem?_eq_getElem hlt, Option.getD_some]
        exact List.getElem_mem hlt

/-- What the transition of an issuer can answer: the stuck fault, a pass, one micro-operation, or one word presented. -/
theorem advance_cases (j : Nat) (s : State) :
    (s.fault ≠ .none ∧ advance j s = .fault (.halted s.fault)) ∨
      (s.fault = .none ∧ (∀ i, s.issuers[j]? = some i → i.ready = false) ∧ advance j s = .next s) ∨
      (s.fault = .none ∧ ∃ i c k, s.issuers[j]? = some i ∧ i.seq = .run c k ∧ advance j s = stepMicroOp j c k s) ∨
      (s.fault = .none ∧ ∃ i w ws, s.issuers[j]? = some i ∧ i.seq = .idle ∧ i.script = w :: ws ∧
        advance j s = present j w (s.setScript j ws)) := by
  unfold advance
  by_cases hh : s.halted = true
  · exact .inl ⟨(State.halted_eq_true s).1 hh, by simp [hh]⟩
  · have hf := (State.halted_eq_false s).1 (by simpa using hh)
    simp only [hh]
    refine .inr ?_
    cases hi : s.issuers[j]? with
    | none => exact .inl ⟨hf, by simp, rfl⟩
    | some i =>
      obtain ⟨q, scr, ret⟩ := i
      cases q with
      | run c k => exact .inr (.inl ⟨hf, _, c, k, rfl, rfl, rfl⟩)
      | idle =>
        cases scr with
        | nil => exact .inl ⟨hf, by simp [Issuer.ready], rfl⟩
        | cons w ws => exact .inr (.inr ⟨hf, _, w, ws, rfl, rfl, rfl, rfl⟩)

/-- The decoder gives commands only (R62). -/
theorem decode_wf {w : CommandWord} {i : Instr} (h : decode w = .ok i) : i.wf = true := by
  unfold decode decodeI decodeW decodeD at h
  repeat' (split at h)
  all_goals first | (cases h; rfl) | cases h

/-- A `Step` with a next state: the micro-operation's next state, with the cursor moved on. -/
theorem stepMicroOp_eq_next {j k : Nat} {c : Command} {s t : State} (h : stepMicroOp j c k s = .next t) :
    ∃ u m, (microOpsOf c)[k]? = some u ∧ execMicroOp u s = .next m ∧ t = m.setSeq j (Cursor.after c k) := by
  unfold stepMicroOp at h
  split at h
  · cases h
  · next u hu =>
    obtain ⟨m, hm, ht⟩ := andThen_eq_next h
    cases ht
    exact ⟨u, m, hu, hm, rfl⟩

/-- A word presented with a next state: IllegalCommand raised, or the decoded command issued. -/
theorem present_eq_next {j : Nat} {w : CommandWord} {s t : State} (h : present j w s = .next t) :
    (∃ e, decode w = .error e ∧ t = (s.setActive j).raise .illegalCommand (.word w)) ∨
      (∃ i, decode w = .ok i ∧ i.wf = true ∧ exec i (s.setActive j) = .next t) := by
  unfold present at h
  split at h
  · next i hi => exact .inr ⟨i, hi, decode_wf hi, h⟩
  · next e he => cases h; exact .inl ⟨e, he, rfl⟩

theorem State.seqAt_setSeq_self (s : State) (j : Nat) (c d : Cursor) (h : s.seqAt j = some d) :
    (s.setSeq j c).seqAt j = some c := by
  obtain ⟨i, hi, -⟩ := State.seqAt_eq_some h
  simp [State.seqAt, hi]

theorem State.seqAt_setSeq_other (s : State) (j k : Nat) (c : Cursor) (h : k ≠ j) :
    (s.setSeq j c).seqAt k = s.seqAt k := by
  simp [State.seqAt, Ne.symm h]

/-- When it is issuer `j`'s turn the step is its transition. -/
theorem step_of_turn (s : State) (j : Nat) (ts : List Turn) (h : s.schedule = .issuer j :: ts) :
    step s = advance j (s.setSchedule ts) := by
  simp [step, transition, h]

/-- The step of a running cursor on its own turn. -/
theorem step_run {s : State} {j k : Nat} {c : Command} {u : MicroOp} {ts : List Turn}
    (hs : s.schedule = .issuer j :: ts) (hf : s.fault = .none) (hq : s.seqAt j = some (.run c k))
    (hu : (microOpsOf c)[k]? = some u) :
    step s = andThen (execMicroOp u (s.setSchedule ts)) fun t => .next (t.setSeq j (Cursor.after c k)) := by
  obtain ⟨i, hi, hseq⟩ := State.seqAt_eq_some hq
  obtain ⟨q, scr, ret⟩ := i
  simp only at hseq
  subst hseq
  have hh : (s.setSchedule ts).halted = false := (State.halted_eq_false _).2 hf
  simp [step_of_turn s j ts hs, advance, hh, hi, stepMicroOp, hu]

theorem State.setSeq_setSeq (s : State) (j : Nat) (c d : Cursor) : (s.setSeq j c).setSeq j d = s.setSeq j d := by
  have : ((s.setSeq j c).issuers.modify j fun x => { x with seq := d }) =
      s.issuers.modify j fun x => { x with seq := d } := by
    apply List.ext_getElem?
    intro n
    simp only [State.setSeq_issuers, List.getElem?_modify]
    cases s.issuers[n]? with
    | none => rfl
    | some i => by_cases h : j = n <;> simp [h]
  rw [State.setSeq, this]
  rfl

theorem State.setSeq_self (s : State) (j : Nat) (c : Cursor) (h : s.seqAt j = some c) : s.setSeq j c = s := by
  obtain ⟨i, hi, hc⟩ := State.seqAt_eq_some h
  have : (s.issuers.modify j fun x => { x with seq := c }) = s.issuers := by
    apply List.ext_getElem?
    intro n
    simp only [List.getElem?_modify]
    cases hn : s.issuers[n]? with
    | none => rfl
    | some x =>
      by_cases hjn : j = n
      · subst hjn
        rw [hi] at hn
        cases hn
        subst hc
        simp
      · simp [hjn]
  rw [State.setSeq, this]
  rfl

theorem run_zero (s : State) : run 0 s = .next s := rfl

theorem run_succ (n : Nat) (s : State) : run (n + 1) s = andThen (step s) (run n) := by
  have hs : step s = core.step s := rfl
  unfold run
  simp only [Host.Core.run, hs]
  cases core.step s <;> rfl

theorem run_succ_of_step {s m : State} (n : Nat) (h : step s = .next m) : run (n + 1) s = run n m := by
  rw [run_succ, h, andThen_next]

/-- A run of `n + m` steps is a run of `n` and then one of `m`. -/
theorem run_add (n m : Nat) (s : State) : run (n + m) s = andThen (run n s) (run m) := by
  induction n generalizing s with
  | zero => rw [Nat.zero_add, run_zero, andThen_next]
  | succ n ih =>
    rw [show n + 1 + m = n + m + 1 by omega, run_succ, run_succ]
    cases step s with
    | next t => exact ih t
    | fault e => rfl
    | refused e => rfl

/-- The cursor after `n` micro-operations from `k`. -/
def Cursor.afterMany (c : Command) (k n : Nat) : Cursor :=
  if n = 0 then .run c k else if k + n < (microOpsOf c).length then .run c (k + n) else .idle

/-- The run of a command in flight when the next turns are all its issuer's: its micro-operations in list order, the
cursor and the schedule moved on (R16, R41). -/
theorem run_microOps {c : Command} {j : Nat} (n : Nat) (s t : State) (k : Nat) (rest : List Turn)
    (hf : s.fault = .none) (hq : s.seqAt j = some (.run c k)) (ht : s.turnsOf j n rest)
    (hk : k + n ≤ (microOpsOf c).length)
    (hx : execMicroOps (((microOpsOf c).drop k).take n) s = .next t) :
    run n s = .next ((t.setSchedule rest).setSeq j (Cursor.afterMany c k n)) := by
  induction n generalizing s t k with
  | zero =>
    simp only [List.take_zero, execMicroOps_nil, Host.Outcome.next.injEq] at hx
    subst hx
    have hsch : s.schedule = rest := by simpa [State.turnsOf] using ht
    have h1 : s.setSchedule rest = s := by subst hsch; rfl
    have h2 : Cursor.afterMany c k 0 = .run c k := rfl
    rw [h1, h2, State.setSeq_self s j _ hq]
    rfl
  | succ n ih =>
    have hlt : k < (microOpsOf c).length := by omega
    rw [List.drop_eq_getElem_cons hlt, List.take_succ_cons, execMicroOps_cons] at hx
    obtain ⟨m, hm, hrest⟩ := andThen_eq_next hx
    have hsch : s.schedule = .issuer j :: (List.replicate n (.issuer j) ++ rest) := by
      simpa [State.turnsOf, List.replicate_succ] using ht
    have hfr := execMicroOp_frame hm
    have hq' : m.seqAt j = some (.run c k) := by rw [State.seqAt, hfr.1]; exact hq
    -- the state after the first step, as `m` with other cursors and another schedule
    have hstep := step_run hsch hf hq (List.getElem?_eq_getElem hlt)
    have hreb : s.setSchedule (List.replicate n (.issuer j) ++ rest) =
        s.rebook s.issuers (List.replicate n (.issuer j) ++ rest) := rfl
    rw [hreb, execMicroOp_rebook, hm, ← hfr.1] at hstep
    simp only [andThen_next] at hstep
    rw [run_succ_of_step n hstep]
    cases n with
    | zero =>
      simp only [List.take_zero, execMicroOps_nil, Host.Outcome.next.injEq] at hrest
      subst hrest
      simp only [List.replicate_zero, List.nil_append, run_zero, Cursor.after, Cursor.afterMany]
      rfl
    | succ n =>
      have hafter : Cursor.after c k = .run c (k + 1) := by
        have : k + 1 < (microOpsOf c).length := by omega
        simp [Cursor.after, this]
      rw [hafter]
      have hx' : execMicroOps (((microOpsOf c).drop (k + 1)).take (n + 1))
          (m.rebook (m.setSeq j (.run c (k + 1))).issuers (List.replicate (n + 1) (.issuer j) ++ rest)) =
          .next (t.rebook (m.setSeq j (.run c (k + 1))).issuers (List.replicate (n + 1) (.issuer j) ++ rest)) := by
        rw [execMicroOps_rebook, hrest]
        rfl
      have hti := (execMicroOps_frame hrest).1
      have hrun := ih (m.rebook (m.setSeq j (.run c (k + 1))).issuers
        (List.replicate (n + 1) (.issuer j) ++ rest)) _ (k + 1) (hfr.2.2.2.2.2.1.trans hf) (m.seqAt_setSeq_self j (.run c (k + 1)) _ hq') rfl
        (by omega) hx'
      have hset : (t.rebook (m.setSeq j (.run c (k + 1))).issuers
          (List.replicate (n + 1) (.issuer j) ++ rest)).setSchedule rest =
          (t.setSchedule rest).setSeq j (.run c (k + 1)) := by
        have : (m.setSeq j (.run c (k + 1))).issuers = (t.setSeq j (.run c (k + 1))).issuers := by simp [hti]
        rw [this]
        rfl
      rw [hset, State.setSeq_setSeq] at hrun
      refine Eq.trans hrun ?_
      simp only [Cursor.afterMany, Nat.succ_ne_zero, if_false]
      rw [show k + 1 + (n + 1) = k + (n + 1 + 1) by omega]

end Sys2Proof.Machine
end

