-- ==== Sys2Proof/Laws/Write.lean ====
section
/-! SUPPORT. The micro-operation lists of the two commands as one state each (spec/42_display_driver.md R85, R87), and
their runs from issue to end. -/

namespace Sys2Proof.Machine

/-- The bits of a byte in wire order, written out (R76). -/
theorem byteBitsMsbFirst_eq (b : Byte) :
    byteBitsMsbFirst b = [b.getLsbD 7, b.getLsbD 6, b.getLsbD 5, b.getLsbD 4, b.getLsbD 3, b.getLsbD 2, b.getLsbD 1,
      b.getLsbD 0] := rfl

@[simp] theorem byteBitsMsbFirst_length (b : Byte) : (byteBitsMsbFirst b).length = 8 := rfl

theorem cellsOps_length (bs : List Bool) : (cellsOps bs).length = 4 * bs.length := by
  induction bs with
  | nil => rfl
  | cons b bs ih =>
    have : cellsOps (b :: bs) = cellOps b ++ cellsOps bs := rfl
    rw [this, List.length_append, ih, List.length_cons]
    simp [cellOps, pulseOps]
    omega

@[simp] theorem writeDigitOps_length (f : Frame) : (microOpsOf (.writeDigit f)).length = 67 := by
  simp [microOpsOf, writeDigitOps, shiftOutOps, cellsOps_length, pulseOps]

@[simp] theorem initialiseOps_length (d c l : PinId) (dv : Bool) (us : Delay) :
    (microOpsOf (.initialise d c l dv us)).length = 9 := rfl

/-- The sixteen bits of a frame in wire order (R51). -/
def frameBitsMsbFirst (f : Frame) : List Bool := byteBitsMsbFirst (addrByte f) ++ byteBitsMsbFirst (patternByte f)

theorem writeDigitOps_eq (f : Frame) : writeDigitOps f = cellsOps (frameBitsMsbFirst f) ++ pulseOps .latch := by
  simp [writeDigitOps, shiftOutOps, cellsOps, frameBitsMsbFirst, List.flatMap_append, List.append_assoc]

/-- A frame's bits: the pattern's below, the address byte's above (R51). -/
theorem frameOf_getLsbD (p pat : Byte) (i : Nat) :
    (frameOf p pat).getLsbD i = if i < 8 then pat.getLsbD i else (oneHot p).getLsbD (i - 8) := by
  have h : (frameOf p pat).getLsbD i = (oneHot p ++ pat : BitVec (8 + 8)).getLsbD i := rfl
  rw [h, BitVec.getLsbD_append]

@[simp] theorem addrByte_frameOf (p pat : Byte) : addrByte (frameOf p pat) = oneHot p := by
  apply BitVec.eq_of_getLsbD_eq
  intro i hi
  simp only [addrByte, Config.byteBits, BitVec.getLsbD_extractLsb', frameOf_getLsbD, hi, decide_true, Bool.true_and]
  rw [if_neg (by omega), show 8 + i - 8 = i by omega]

@[simp] theorem patternByte_frameOf (p pat : Byte) : patternByte (frameOf p pat) = pat := by
  apply BitVec.eq_of_getLsbD_eq
  intro i hi
  simp only [patternByte, Config.byteBits, BitVec.getLsbD_extractLsb', frameOf_getLsbD, hi, decide_true, Bool.true_and, Nat.zero_add,
    if_true]

/-- WRITEDIGIT's whole list, as one state. -/
def State.writeOn (d c l : PinId) (f : Frame) (s : State) : State :=
  (s.cellsOn d c (frameBitsMsbFirst f)).pulseOn l

theorem execMicroOps_writeDigit {s : State} {d c l : PinId} (f : Frame) (h : s.hasPins d c l) :
    execMicroOps (writeDigitOps f) s = .next (s.writeOn d c l f) := by
  obtain ⟨hd, hc, hl⟩ := h
  have hf := (s.cellsOn_busFrame d c (frameBitsMsbFirst f)).regs
  have hl' : (s.cellsOn d c (frameBitsMsbFirst f)).pinReg .latch = .pin l := by rw [hf.pinReg]; exact hl
  rw [writeDigitOps_eq, execMicroOps_append, execMicroOps_cells _ hd hc, andThen_next, execMicroOps_pulse hl']
  rfl

theorem State.writeOn_busFrame (s : State) (d c l : PinId) (f : Frame) : s.BusFrame (s.writeOn d c l f) :=
  (s.cellsOn_busFrame d c _).trans (State.pulseOn_busFrame _ l)

theorem State.writeOn_trace (s : State) (d c l : PinId) (f : Frame) :
    (s.writeOn d c l f).trace = s.trace ++
      ((frameBitsMsbFirst f).flatMap (cellEvents d c s.pulseDelay) ++ pulseEvents l s.pulseDelay) := by
  have hf := (s.cellsOn_busFrame d c (frameBitsMsbFirst f)).regs
  rw [State.writeOn, State.pulseOn_trace, hf.pulseDelay, State.cellsOn_trace, List.append_assoc]

/-- INITIALISE's whole list, as one state (R85). -/
def State.initialiseOn (d c l : PinId) (dv : Bool) (us : Delay) (s : State) : State :=
  ((((((((s.setPins d c l).cfgLine d).cfgLine c).cfgLine l).drvLine d false).drvLine c false).drvLine l
    false).optionalDelay dv us).setInit

theorem execMicroOps_initialise (s : State) (d c l : PinId) (dv : Bool) (us : Delay) :
    execMicroOps (initialiseOps d c l dv us) s = .next (s.initialiseOn d c l dv us) := by
  simp [initialiseOps, execMicroOp, withPin, State.pinReg, State.initialiseOn]

/-- A state right after a command was issued and the run that follows, none of another issuer's turns in between:
the command's whole list acts, and the issuer is `Idle` again (R16, R41). -/
theorem run_from_issue {c : Command} (n : Nat) (s t : State) (rest : List Turn) (hi : s.canIssue)
    (hn : n = (microOpsOf c).length) (hpos : 0 < n) (ht : s.turnsOf s.active n rest)
    (hx : execMicroOps (microOpsOf c) s = .next t) :
    run n (s.setSeq s.active (.run c 0)) = .next (t.setSchedule rest) := by
  obtain ⟨hf, hq⟩ := hi
  have hx' : execMicroOps (((microOpsOf c).drop 0).take n) (s.setSeq s.active (.run c 0)) =
      .next (t.setSeq s.active (.run c 0)) := by
    have h1 : s.setSeq s.active (.run c 0) = s.rebook (s.setSeq s.active (.run c 0)).issuers s.schedule := rfl
    have hfr := execMicroOps_frame hx
    have h2 : t.setSeq s.active (.run c 0) = t.rebook (s.setSeq s.active (.run c 0)).issuers s.schedule := by
      have : (s.setSeq s.active (.run c 0)).issuers = (t.setSeq s.active (.run c 0)).issuers := by simp [hfr.1]
      rw [this, ← hfr.2.1]
      rfl
    rw [List.drop_zero, hn, List.take_length, h1, execMicroOps_rebook, hx, h2]
    rfl
  have hrun := run_microOps n (s.setSeq s.active (.run c 0)) _ 0 rest hf (s.seqAt_setSeq_self s.active _ _ hq) ht
    (by omega) hx'
  refine hrun.trans ?_
  have hidle : Cursor.afterMany c 0 n = .idle := by
    have : n ≠ 0 := by omega
    rw [Cursor.afterMany, if_neg this, if_neg (by omega)]
  have hti := (execMicroOps_frame hx).1
  have hset : ((t.setSeq s.active (.run c 0)).setSchedule rest).setSeq s.active .idle =
      (t.setSchedule rest) := by
    have h1 : (t.setSeq s.active (.run c 0)).setSchedule rest =
        (t.setSchedule rest).setSeq s.active (.run c 0) := rfl
    rw [h1, State.setSeq_setSeq]
    exact State.setSeq_self _ _ _ (by rw [State.seqAt, State.setSchedule_issuers, hti]; exact hq)
  rw [hidle, hset]

end Sys2Proof.Machine
end

