-- ==== Sys2Proof/Tests/Slice0.lean ====
section
/-! SUPPORT. The model's own tests: expected values are those of spec/95_test_vectors.md or worked out by hand from the
rule named. The second half gives, for every statement that has hypotheses, a concrete state and operands that meet
them together. -/

namespace Sys2Proof.Tests

open Sys2Proof.Machine

/-- The next state of an outcome, if it is one. -/
def nextOf : Result → Option State
  | .next s => some s
  | .fault _ => none
  | .refused _ => none

/-- What a single step stops with, if it stops. -/
def refusalOf : Result → Option Refusal
  | .next _ => none
  | .fault _ => none
  | .refused r => some r

/-- Lines 9, 8 and 7 as `INITIALISE 9, 8, 7` leaves them (V-I1). -/
def lines987 : Gpio := [(7, ⟨.output, .low⟩), (8, ⟨.output, .low⟩), (9, ⟨.output, .low⟩)]

/-- The state after `INITIALISE 9, 8, 7` from reset, as far as the tests need it (V-I1). -/
def ready : State :=
  { State.reset with
    init := true
    pinData := .pin 9
    pinClock := .pin 8
    pinLatch := .pin 7
    gpio := lines987 }

/-- `ready` with `n` turns of issuer 1 to come. -/
def readyFor (n : Nat) : State := { ready with schedule := List.replicate n (.issuer 0) }

/-- A state whose only issuer is at this cursor, with its turn next. -/
def runningAt (c : Command) (k : Nat) (s : State) : State :=
  { s with issuers := [⟨.run c k, [], []⟩], schedule := [.issuer 0] }

/-- A state whose only issuer presents this word next. -/
def presenting (w : CommandWord) (s : State) : State :=
  { s with issuers := [⟨.idle, [w], []⟩], schedule := [.issuer 0] }

/-- A state halted by NotInitialised. -/
def halted : State := { State.reset with fault := .notInitialised }

-- ==== Well-formedness: every check refuses an ill-formed term (R62) ====

theorem test_shiftOut_is_no_command : (Instr.shiftOut 0x80).wf = false := by decide

theorem test_pulse_is_no_command : (Instr.pulse .latch).wf = false := by decide

theorem test_no_word_for_the_routines : encode (.shiftOut 0x80) = none ∧ encode (.pulse .clock) = none := by decide

-- ==== Decoding (V-E1 to V-E18) ====

/-- `op` 0001, `dv` 0, reserved 000, pins 9, 8, 7, delay 0 (R56, V-E1). -/
theorem test_decode_initialise :
    decode 0b0001000000001001000010000000011100000000000000000000000000000000#64 =
      .ok (.initialise 9 8 7 false 0) := by decide

/-- V-E4 and V-E5: bit 59 alone tells the two apart; the largest operands. -/
theorem test_decode_initialise_delay :
    decode 0x1802030400000000#64 = .ok (.initialise 2 3 4 true 0) ∧
      decode 0x18FFFEFDFFFFFFFF#64 = .ok (.initialise 255 254 253 true 4294967295) := by decide

/-- V-E17: the delay field is no reserved field when `dv` is 0. -/
theorem test_decode_initialise_ignored_delay :
    decode 0x1009080700000032#64 = .ok (.initialise 9 8 7 false 50) := by decide

/-- `op` 0010, 44 zeros, position 7, pattern 0x7F (R57, V-E8). -/
theorem test_decode_writeDigit :
    decode 0b0010000000000000000000000000000000000000000000000000011101111111#64 =
      .ok (.writeDigit 7 0x7F) := by decide

/-- V-E9 and V-E10: positions above 7 are legal words. -/
theorem test_decode_writeDigit_out_of_range :
    decode 0x2000000000000800#64 = .ok (.writeDigit 8 0) ∧
      decode 0x200000000000FFFF#64 = .ok (.writeDigit 255 0xFF) := by decide

/-- `op` 0011, 52 zeros, index 11 (R58, V-E11). -/
theorem test_decode_digits :
    decode 0b0011000000000000000000000000000000000000000000000000000000001011#64 = .ok (.digits 11) := by decide

/-- V-E12 and V-E13: the reserved operations at both ends of their range. -/
theorem test_decode_reserved_op :
    decode 0x0000000000000000#64 = .error (.reservedOp 0) ∧ decode 0x4000000000000000#64 = .error (.reservedOp 4) ∧
      decode 0xFFFFFFFFFFFFFFFF#64 = .error (.reservedOp 15) := by decide

/-- V-E14 to V-E16: the lowest reserved bit of each format. -/
theorem test_decode_reserved_field :
    decode 0x1109080700000000#64 = .error (.reservedField 1) ∧
      decode 0x20000000000100C0#64 = .error (.reservedField 2) ∧
      decode 0x300000000000010A#64 = .error (.reservedField 3) := by decide

/-- V-E2, V-E6 and V-E11: the words of three commands. -/
theorem test_encode :
    encode (.initialise 9 8 7 true 50) = some 0x1809080700000032#64 ∧
      encode (.writeDigit 0 0xC0) = some 0x20000000000000C0#64 ∧
      encode (.digits 255) = some 0x30000000000000FF#64 := by decide

/-- Table rows: 64 bits are a command word; the wire rows of 8 and 2 bits are none (R62). -/
theorem test_table_words :
    decodeTableWord 64 0x2000000000000304 = some (.writeDigit 3 4) ∧ decodeTableWord 8 0xFF = none ∧
      decodeTableWord 2 2 = none := by decide

/-- The wire patterns of V-W3 and of R75. -/
theorem test_wire_pattern :
    wirePattern (.writeDigit 3 0xA4) =
        [false, false, false, false, true, false, false, false, true, false, true, false, false, true, false, false] ∧
      wirePattern (.pulse .latch) = [true, false] := by decide

/-- R106: nothing is sent for a position above 7, so there is no wire pattern. -/
theorem test_wire_pattern_out_of_range :
    wirePattern (.writeDigit 8 0xFF) = [] ∧ wirePattern (.writeDigit 255 0) = [] := by decide

/-- R9: two bytes make a frame, and a write has a pulse for each bit of it and one more (R132). -/
theorem test_parameters_agree :
    Config.frameBits = 2 * Config.byteBits ∧ Config.pulsesPerWrite = Config.frameBits + 1 ∧ Config.nDigits = Config.byteBits ∧
      nominalWriteTime 150 = 2550 := by decide

/-- R52's table at its ends: positions 0 and 7 are 0x01 and 0x80. -/
theorem test_oneHot : oneHot 0 = 0x01#8 ∧ oneHot 3 = 0x08#8 ∧ oneHot 7 = 0x80#8 := by decide

-- ==== Scripts (R61) ====

theorem test_script_line :
    parseScript ["i2: WRITEDIGIT 1, 0x00  ; i2's write".toList, "".toList, "INITIALISE 9, 8, 7, 0b110010".toList] =
      some [⟨2, .writeDigit 1 0⟩, ⟨1, .initialise 9 8 7 true 50⟩] := by decide

/-- Log 32: with one issuer a line of issuer 2 is presented by nobody. -/
theorem test_script_of_an_absent_issuer :
    (State.startOfRun 1 Config.defaultParams [⟨2, .digits 0⟩]).issuers = [⟨.idle, [], []⟩] := by decide

theorem test_script_rejects : parseScript ["WRITEDIGIT 1, 256".toList] = none := by decide

-- ==== One step each (V-D, V-B, V-I, V-W, V-F) ====

/-- V-D1: `DIGITS 0` from reset returns 0xC0 and leaves `FAULT`, `INIT` and `TRACE`. -/
theorem test_digits_returns_the_entry :
    (nextOf (exec (.digits 0) State.reset)).map (fun t => (t.issuers, t.fault, t.init, t.trace)) =
      some ([⟨.idle, [], [0xC0]⟩], .none, false, []) := by decide

/-- V-D5: `DIGITS 12` raises no fault; its byte is free, so only how many there are is looked at. -/
theorem test_digits_above_eleven :
    (nextOf (exec (.digits 12) State.reset)).map (fun t => (t.fault, t.issuers.map (·.returned.length))) =
      some (.none, [1]) := by decide

/-- V-F1: `WRITEDIGIT 0, 0xC0` from reset: code 1, no event. -/
theorem test_write_before_initialise :
    (nextOf (exec (.writeDigit 0 0xC0) State.reset)).map (fun t => (t.fault, t.trace, t.init)) =
      some (.notInitialised, [], false) := by decide

/-- V-F2 and V-F9: position 8 is code 2 and position 7 runs with address byte 0x80. -/
theorem test_write_position :
    (nextOf (exec (.writeDigit 8 0) ready)).map (·.fault) = some .positionRange ∧
      (nextOf (exec (.writeDigit 7 0xFF) ready)).map (fun t => (t.fault, t.seqAt 0)) =
        some (.none, some (.run (.writeDigit 0x80FF) 0)) := by decide

/-- R85: at issue INITIALISE only latches its operands; micro-operation 0 writes all three pins. -/
theorem test_initialise_assigns_pins :
    (nextOf (exec (.initialise 9 8 7 true 50) State.reset)).map (fun t => (t.pinData, t.seqAt 0)) =
        some (.x, some (.run (.initialise 9 8 7 true 50) 0)) ∧
      (nextOf (step (runningAt (.initialise 2 3 4 false 0) 0 ready))).map (fun t => (t.pinData, t.pinClock, t.pinLatch)) =
        some (.pin 2, .pin 3, .pin 4) := by decide

/-- V-I4: without a delay operand the delay register stays, here at 50, also with a delay field that is not zero. -/
theorem test_initialise_keeps_the_delay :
    (nextOf (step (runningAt (.initialise 2 3 4 false 99) 7 { ready with pulseDelay := 50 }))).map (·.pulseDelay) =
      some 50 := by decide

/-- V-B2: the latch pulse, with the line back at 0. -/
theorem test_pulse_latch :
    (nextOf (exec (.pulse .latch) ready)).map (fun t => (t.trace, t.gpio.line 7)) =
      some ([.drv 7 true, .wait 150, .drv 7 false], ⟨.output, .low⟩) := by decide

/-- V-B6: SHIFTOUT(0x01): seven cells of 0, then one of 1; the data line ends at 1 and the clock line at 0. -/
theorem test_shiftOut_one :
    (nextOf (exec (.shiftOut 0x01) ready)).map (fun t => (t.trace.length, drivesOn 9 t.trace, t.gpio.line 9)) =
      some (32, [false, false, false, false, false, false, false, true], ⟨.output, .high⟩) := by decide

/-- V-E12, R107: the word 0 is IllegalCommand. -/
theorem test_illegal_word : (nextOf (step (presenting 0 State.reset))).map (·.fault) = some .illegalCommand := by decide

/-- A command placed for fetching is the next one issued. -/
theorem test_placed_word :
    (nextOf (step (State.reset.withFetchWord 64 0x1009080700000000))).map (·.seqAt 0) =
      some (some (.run (.initialise 9 8 7 false 0) 0)) := by decide

/-- V-C4: after `Drv(7, 1)` the outputs are the shift stage, all sixteen cells. -/
theorem test_latch_rise :
    (nextOf (step (runningAt (.writeDigit 0x01C0) 64 { ready with chain := ⟨Cells.ofFrame 0x01C0, Cells.allX⟩ }))).map
      (·.chain.out) = some (Cells.ofFrame 0x01C0) := by decide

/-- R19, U5: a drive of a line never configured leaves it unconfigured and X, and is traced. -/
theorem test_drive_unconfigured :
    (nextOf (execMicroOp (.drv .data true) { ready with gpio := [] })).map (fun t => (t.gpio.line 9, t.trace)) =
      some (⟨.unconfigured, .x⟩, [.drv 9 true]) := by decide

/-- R19, U7: a pin register that holds X. -/
theorem test_pin_register_x : refusalOf (exec (.pulse .clock) State.reset) = some .pinRegisterX := by decide

-- ==== Witnesses: the hypotheses of each statement can be met together ====

theorem witness_DecodeOfEncode : (Instr.initialise 255 0 7 false 5).wf = true ∧ (Instr.digits 12).wf = true := by decide

theorem witness_EncodeOfDecode : decode 0x3000000000000000#64 = .ok (.digits 0) := by decide

theorem witness_FormatI :
    0x1809080700000032#64 &&& 0xF700000000000000#64 = 0x1000000000000000#64 ∧
      0x1109080700000000#64 &&& 0xF700000000000000#64 ≠ 0x1000000000000000#64 := by decide

theorem witness_FormatW :
    0x200000000000FFFF#64 &&& 0xFFFFFFFFFFFF0000#64 = 0x2000000000000000#64 ∧
      0x2000000000010000#64 &&& 0xFFFFFFFFFFFF0000#64 ≠ 0x2000000000000000#64 := by decide

theorem witness_FormatD :
    0x30000000000000FF#64 &&& 0xFFFFFFFFFFFFFF00#64 = 0x3000000000000000#64 ∧
      0x3000000000000100#64 &&& 0xFFFFFFFFFFFFFF00#64 ≠ 0x3000000000000000#64 := by decide

theorem witness_IllegalWords :
    (∃ e, decode 0x4000000000000000#64 = .error e) ∧ (∃ e, decode 0x1100000000000000#64 = .error e) ∧
      (∃ e, decode 0x2000000000010000#64 = .error e) ∧ (∃ e, decode 0x3000000000000100#64 = .error e) ∧
      decode 0x3000000000000000#64 = .ok (.digits 0) :=
  ⟨⟨_, rfl⟩, ⟨_, rfl⟩, ⟨_, rfl⟩, ⟨_, rfl⟩, rfl⟩

theorem witness_AddressByte : (0#8).toNat < 8 ∧ (7#8).toNat < 8 := by decide

theorem witness_ResetIsAlwaysEnabled :
    ({ halted with schedule := [.reset] } : State).schedule = .reset :: [] := rfl

/-- For StepRunsTheDecodedCommand: issuer 1's next word is `DIGITS 0`. -/
theorem witness_StepRunsTheDecodedCommand :
    let s := presenting 0x3000000000000000#64 State.reset
    s.schedule = .issuer 0 :: [] ∧ s.fault = .none ∧ s.issuers[0]? = some ⟨.idle, [0x3000000000000000#64], []⟩ ∧
      decode 0x3000000000000000#64 = .ok (.digits 0) := by decide

theorem witness_PlacedWord :
    State.reset.fault = .none ∧ State.reset.issuers ≠ [] ∧ decode 0x3000000000000000#64 = .ok (.digits 0) := by decide

theorem witness_IllegalWordRaises :
    let s := presenting 0#64 State.reset
    s.schedule = .issuer 0 :: [] ∧ s.fault = .none ∧ s.issuers[0]? = some ⟨.idle, [0#64], []⟩ ∧
      decode 0#64 = .error (.reservedOp 0) := by decide

/-- For StepExecutesOneMicroOperation, at a first, a middle and a last micro-operation. -/
theorem witness_StepExecutesOne :
    let s := runningAt (.writeDigit 0x01C0) 0 ready
    s.schedule = .issuer 0 :: [] ∧ s.fault = .none ∧ s.seqAt 0 = some (.run (.writeDigit 0x01C0) 0) ∧
      (microOpsOf (.writeDigit 0x01C0))[0]? = some (.drv .data false) ∧
      (microOpsOf (.writeDigit 0x01C0))[66]? = some (.drv .latch false) ∧
      ∃ t, execMicroOp (.drv .data false) { s with schedule := [] } = .next t :=
  ⟨rfl, rfl, rfl, by decide, by decide, _, rfl⟩

theorem witness_Halted : halted.fault ≠ .none ∧ halted.resetNext = false := by decide

theorem witness_StepFaults : step halted = .fault (.halted .notInitialised) := rfl

theorem witness_BusyIssuer :
    let s := runningAt (.writeDigit 0x01C0) 3 ready
    s.fault = .none ∧ s.seqAt s.active = some (.run (.writeDigit 0x01C0) 3) ∧ (Instr.digits 0).wf = true := by decide

theorem witness_SingleIssuer :
    State.reset.schedule = [] ∧ State.reset.issuers = [⟨.idle, [], []⟩] ∧ State.reset.fault = .none ∧
      (Issuer.mk .idle [] []).ready = false ∧ (Issuer.mk .idle [0#64] []).ready = true := by decide

/-- The third clause: the next word is `DIGITS 11`, the last index in contract. -/
theorem witness_SingleIssuer_noFreeValue (w : CommandWord) (ws : List CommandWord) (index : Byte)
    (h : [0x300000000000000B#64] = w :: ws) (hd : decode w = .ok (.digits index)) : index.toNat ≤ 11 := by
  cases h
  have h11 : decode 0x300000000000000B#64 = .ok (.digits 11) := rfl
  rw [h11] at hd
  cases hd
  decide

/-- For UnscheduledStepIsSomeReadyIssuers, with two ready issuers. -/
theorem witness_Unscheduled :
    let s := { ready with issuers := [⟨.idle, [0#64], []⟩, ⟨.run (.writeDigit 0x01C0) 0, [], []⟩] }
    s.schedule = [] ∧ s.fault = .none ∧ readyFrom 0 s.issuers = [0, 1] := by decide

theorem witness_Ended :
    ready.ended = true ∧ ready.schedule = [] ∧ (readyFor 1).ended = true ∧ (readyFor 1).schedule = .issuer 0 :: [] := by
  decide

theorem witness_Configure : ready.pinReg .data = .pin 9 ∧ ready.pinReg .latch = .pin 7 := by decide

/-- For DriveSetsTheLineAndIsTraced: an output, and a line never configured. -/
theorem witness_Drive :
    ready.gpio.wf = true ∧ ready.pinReg .clock = .pin 8 ∧ (ready.gpio.line 8).mode = .output ∧
      Gpio.wf [] = true ∧ (Gpio.line [] 8).mode = .unconfigured := by decide

theorem witness_DriveOfAnUnassignedPin :
    ({ ready with pinClock := .x } : State).pinReg .clock = .x ∧ State.reset.pinReg .data = .x ∧ State.reset.pinReg .clock = .x ∧ State.reset.fault = .none ∧
      roleOfLine .clock = .clock := by decide

/-- For ChainReactsToRisingEdges: a clock drive from 0, from X and from 1. -/
theorem witness_ChainReacts :
    ready.params.wires.distinct = true ∧ ready.pinReg .clock = .pin 8 ∧ ready.params.wires.clock = 8 ∧
      (ready.gpio.line 8).level = .low ∧ (Gpio.line [(8, ⟨.output, .x⟩)] 8).level = .x ∧
      (Gpio.line [(8, ⟨.output, .high⟩)] 8).level = .high ∧
      (nextOf (execMicroOp (.drv .clock true) ready)).map (fun t => (t.gpio.line 8).level) = some .high ∧
      (nextOf (execMicroOp (.drv .clock true) { ready with gpio := [(8, ⟨.output, .x⟩)] })).map
        (fun t => (t.gpio.line 8).level) = some .high := by decide

theorem witness_ChainReacts_latch :
    ready.pinReg .latch = .pin 7 ∧ ready.params.wires.latch = 7 ∧ (ready.gpio.line 7).level = .low ∧
      (nextOf (execMicroOp (.drv .latch true) ready)).map (fun t => (t.gpio.line 7).level) = some .high ∧
      (nextOf (execMicroOp (.drv .latch true) { ready with gpio := [(7, ⟨.output, .x⟩)] })).map
        (fun t => (t.gpio.line 7).level) = some .high := by decide

/-- For the issue statements of INITIALISE, DIGITS and a WRITEDIGIT that faults: `INIT` 0 and `INIT` 1. -/
theorem witness_canIssue :
    State.reset.canIssue ∧ State.reset.init = false ∧ ready.canIssue ∧ ready.init = true := by decide

theorem witness_InitialiseCompletes :
    let s := { State.reset with schedule := List.replicate 9 (.issuer 0) }
    s.canIssue ∧ s.turnsOf s.active 9 [] := by decide

/-- For RegistersAreWrittenOnlyByInitialise: each of the three clauses' registers does change somewhere. -/
theorem witness_RegistersAreWritten :
    (runningAt (.initialise 2 3 4 true 50) 0 ready).resetNext = false ∧
      (nextOf (step (runningAt (.initialise 2 3 4 true 50) 0 ready))).map (·.pinData) = some (.pin 2) ∧
      (nextOf (step (runningAt (.initialise 2 3 4 true 50) 7 ready))).map (·.pulseDelay) = some 50 ∧
      (nextOf (step (runningAt (.initialise 2 3 4 true 50) 8 { ready with init := false }))).map (·.init) =
        some true := by decide

/-- For PositionAboveSevenRaisesPositionRange: both ends of the range. -/
theorem witness_PositionAboveSeven :
    ready.canIssue ∧ ready.init = true ∧ 8 ≤ (8#8).toNat ∧ 8 ≤ (255#8).toNat := by decide

/-- For the statements about a complete WRITEDIGIT: positions 0 and 7, roles 9, 8, 7, the chain ready. -/
theorem witness_CompleteWrite :
    let s := readyFor 67
    s.canIssue ∧ s.init = true ∧ (0#8).toNat < 8 ∧ (7#8).toNat < 8 ∧ s.hasPins 9 8 7 ∧ s.chainReady ∧
      s.pinsAssigned = true ∧ s.turnsOf s.active 67 [] := by decide

theorem witness_CompleteWrite_lines :
    (ready.gpio.line 9).mode = .output ∧ (ready.gpio.line 8).mode = .output ∧ (ready.gpio.line 7).mode = .output ∧
      (9#8) ≠ 8#8 ∧ (9#8) ≠ 7#8 ∧ (8#8) ≠ 7#8 := by decide

theorem witness_NothingIsVisible :
    let s := readyFor 67
    s.params.wires.latch ≠ 9 ∧ s.params.wires.latch ≠ 8 ∧ 0 ≤ 64 ∧ s.hasPins 9 8 7 := by decide

/-- For UnwiredWriteLeavesTheDisplay: the roles of V-I5, pins 2, 3, 4, with the chain on 9, 8, 7. -/
theorem witness_UnwiredWrite :
    let s := { readyFor 67 with pinData := .pin 2, pinClock := .pin 3, pinLatch := .pin 4 }
    s.canIssue ∧ s.init = true ∧ s.hasPins 2 3 4 ∧ s.turnsOf s.active 67 [] ∧
      s.params.wires.clock = 8 ∧ s.params.wires.latch = 7 := by decide

theorem witness_RepeatedWrite :
    let w := 0x20000000000003A5#64
    let s := { readyFor 136 with issuers := [⟨.idle, [w, w], []⟩] }
    s.fault = .none ∧ s.issuers[0]? = some ⟨.idle, [w, w], []⟩ ∧ decode w = .ok (.writeDigit 3 0xA5) ∧ s.init = true ∧
      s.pinsAssigned = true ∧ s.chainReady ∧ s.turnsOf 0 136 [] := by decide

theorem witness_AndOfPatterns : (7#8).toNat < 8 ∧ (7 : Fin 8).val = (7#8).toNat := by decide

theorem witness_OnlyTheWrittenPanel : (0#8).toNat < 8 ∧ (7#8).toNat < 8 := by decide

/-- For DigitsReturnsTheTableEntry and DigitsAboveElevenReturnsSomeByte: the ends of both ranges. -/
theorem witness_Digits :
    State.reset.canIssue ∧ (0#8).toNat ≤ 11 ∧ (11#8).toNat ≤ 11 ∧ 12 ≤ (12#8).toNat ∧ 12 ≤ (255#8).toNat ∧
      (1#8).toNat = (0 : Fin 9).val + 1 ∧ (9#8).toNat = (8 : Fin 9).val + 1 := by decide

theorem witness_ParametersNeverChange : step State.reset = .next State.reset := rfl

theorem witness_Pulse :
    ready.fault = .none ∧ ready.pinReg (roleOfLine .clock) = .pin 8 ∧ ready.pinReg (roleOfLine .latch) = .pin 7 ∧
      (ready.gpio.line 7).mode = .output := by decide

theorem witness_ShiftOut :
    ready.fault = .none ∧ ready.pinData = .pin 9 ∧ ready.pinClock = .pin 8 ∧ ready.chainReady := by decide

theorem witness_ShiftOut_next : ∃ t, exec (.shiftOut 0xA4) ready = .next t := ⟨_, rfl⟩

theorem witness_LatchPulse :
    ready.fault = .none ∧ ready.params.wires.distinct = true ∧ ready.pinLatch = .pin ready.params.wires.latch ∧
      ready.lineLow ready.params.wires.latch := by decide

/-- For the statements about every step: a state that meets the invariant, does not reset and steps on. -/
theorem witness_EveryStep :
    let s := runningAt (.writeDigit 0x01C0) 64 ready
    s.inv = true ∧ s.gpio.wf = true ∧ s.resetNext = false ∧ s.seqAt 0 = some (.run (.writeDigit 0x01C0) 64) ∧
      (nextOf (step s)).isSome = true := by decide

/-- For NothingIsReadBack: a step goes on, faults, and is refused. -/
theorem witness_NothingIsReadBack :
    (nextOf (step (runningAt (.writeDigit 0x01C0) 0 ready))).isSome = true ∧
      step halted = .fault (.halted .notInitialised) ∧
      step (runningAt (.writeDigit 0x01C0) 0 State.reset) = .refused .pinRegisterX :=
  ⟨by decide, rfl, rfl⟩

/-- For OutputsChangeOnlyAtALatchRise: both parts of the chain do change somewhere. -/
theorem witness_OutputsChange :
    ready.gpio.wf = true ∧ (runningAt (.writeDigit 0x01C0) 1 ready).resetNext = false ∧
      (nextOf (step (runningAt (.writeDigit 0x01C0) 1 ready))).map (·.chain.sr) ≠ some ready.chain.sr ∧
      (nextOf (step (runningAt (.writeDigit 0x01C0) 64
        { ready with chain := ⟨Cells.ofFrame 0x01C0, Cells.allX⟩ }))).map (·.chain.out) ≠ some Cells.allX := by decide

/-- For FairRunsEndEveryCommandInFlight: an issuer before the last micro-operation of its WRITEDIGIT, then at rest. -/
def lastStep : State := { ready with issuers := [⟨.run (.writeDigit 0x01C0) 66, [], []⟩] }

/-- `lastStep` after that micro-operation. -/
def rested : State := { ready with trace := [.drv 7 false] }

/-- The run of the two. -/
def lastStepRun (n : Nat) : State := if n = 0 then lastStep else rested

theorem witness_FairRuns :
    EndlessRun lastStepRun ∧ WeaklyFair lastStepRun ∧ (lastStepRun 0).seqAt 0 = some (.run (.writeDigit 0x01C0) 66) := by
  refine ⟨fun n => ?_, fun j n h => ?_, rfl⟩
  · cases n with
    | zero => rfl
    | succ n => rfl
  · obtain ⟨-, c, k, hq⟩ := h (n + 1) (Nat.le_succ n)
    have hr : (rested.issuers[j]?).map (·.seq) = some (.run c k) := hq
    cases j <;> simp [rested, ready, State.reset, State.resetFor, Config.defaultIssuers, Issuer.start] at hr

theorem witness_ResetMeetsTheInvariant : Config.defaultParams.wires.distinct = true := by decide

end Sys2Proof.Tests
end

/-! PROOFS. What a step does to the block's setting, that is the pin registers, `PULSE_DELAY` and `INIT`
(spec/10_state.md R11 to R13): only three micro-operations of INITIALISE write it. -/

namespace Sys2Proof.Machine

/-- What a step other than Reset can do: after its turn is taken the issuer passes, executes one micro-operation, or
presents its script's next word (R16). -/
theorem step_eq_next {s t : State} (h : step s = .next t) (hr : s.resetNext = false) :
    s.fault = .none ∧ ∃ s', s.TurnTaken s' ∧
      (t = s' ∨
        (∃ j c k, s.seqAt j = some (.run c k) ∧ stepMicroOp j c k s' = .next t) ∨
        (∃ j i w ws, s.issuers[j]? = some i ∧ i.seq = .idle ∧ i.script = w :: ws ∧
          present j w (s'.setScript j ws) = .next t)) := by
  rcases step_cases s with ⟨ts, hs, -⟩ | ⟨-, -, -, hstep⟩ | ⟨-, j, s', hturn, hstep, -⟩
  · simp [State.resetNext, hs] at hr
  · rw [hstep] at h
    split at h
    · cases h
    · next hh =>
      cases h
      exact ⟨(State.halted_eq_false s).1 (by simpa using hh), s, .inl rfl, .inl rfl⟩
  · obtain ⟨-, -, -, -, -, hfault, -, hissuers, -⟩ := hturn.frame
    rw [hstep] at h
    rcases advance_cases j s' with ⟨-, ha⟩ | ⟨hf, -, ha⟩ | ⟨hf, i, c, k, hi, hq, ha⟩ | ⟨hf, i, w, ws, hi, hq, hw, ha⟩ <;>
      rw [ha] at h
    · cases h
    · cases h
      exact ⟨hfault ▸ hf, t, hturn, .inl rfl⟩
    · rw [hissuers] at hi
      exact ⟨hfault ▸ hf, s', hturn, .inr (.inl ⟨j, c, k, by rw [State.seqAt_of_getElem? hi, hq], h⟩)⟩
    · rw [hissuers] at hi
      exact ⟨hfault ▸ hf, s', hturn, .inr (.inr ⟨j, i, w, ws, hi, hq, hw, h⟩)⟩

/-- The pin registers, `PULSE_DELAY` and `INIT` of `t` are those of `s`. -/
structure State.SameSetting (s t : State) : Prop where
  init : t.init = s.init
  pinData : t.pinData = s.pinData
  pinClock : t.pinClock = s.pinClock
  pinLatch : t.pinLatch = s.pinLatch
  pulseDelay : t.pulseDelay = s.pulseDelay

theorem State.SameRegisters.sameSetting {s t : State} (h : s.SameRegisters t) : s.SameSetting t :=
  ⟨h.init, h.pinData, h.pinClock, h.pinLatch, h.pulseDelay⟩

theorem State.SameSetting.trans {s t u : State} (h : s.SameSetting t) (h' : t.SameSetting u) : s.SameSetting u :=
  ⟨h'.init.trans h.init, h'.pinData.trans h.pinData, h'.pinClock.trans h.pinClock, h'.pinLatch.trans h.pinLatch,
    h'.pulseDelay.trans h.pulseDelay⟩

theorem State.TurnTaken.sameSetting {s s' : State} (h : s.TurnTaken s') : s.SameSetting s' := by
  obtain ⟨hinit, hdata, hclock, hlatch, hdelay, -⟩ := h.frame
  exact ⟨hinit, hdata, hclock, hlatch, hdelay⟩

theorem State.setSeq_sameSetting (s : State) (j : Nat) (c : Cursor) : s.SameSetting (s.setSeq j c) := by
  constructor <;> rfl

/-- Issuing a command writes no register of the setting: INITIALISE only latches its operands (R17, R85). -/
theorem exec_command_sameSetting {s t : State} {i : Instr} (hw : i.wf = true) (h : exec i s = .next t) :
    s.SameSetting t := by
  obtain ⟨-, ⟨d, c, l, dv, us, -, rfl⟩ | ⟨p, pat, -, -, rfl⟩ | ⟨p, pat, -, -, -, rfl⟩ | ⟨p, pat, -, -, -, rfl⟩ |
    ⟨x, b, -, -, rfl⟩ | ⟨x, -, -, rfl⟩⟩ := exec_command_eq_next hw h <;> constructor <;> rfl

theorem present_sameSetting {j : Nat} {w : CommandWord} {s t : State} (h : present j w s = .next t) :
    s.SameSetting t := by
  rcases present_eq_next h with ⟨e, -, rfl⟩ | ⟨i, -, hw, hi⟩
  · constructor <;> rfl
  · have hactive : s.SameSetting (s.setActive j) := by constructor <;> rfl
    exact hactive.trans (exec_command_sameSetting hw hi)

/-- The register writes among the micro-operations: "one CFG, DRV, WAIT or register write" (R16). -/
def MicroOp.writesRegister : MicroOp → Bool
  | .assignPins _ _ _ | .delay _ _ | .setInit => true
  | .cfg _ | .drv _ _ | .wait => false

/-- A micro-operation that is no register write keeps the setting (R19). -/
theorem execMicroOp_sameSetting {u : MicroOp} {s t : State} (hu : u.writesRegister = false)
    (h : execMicroOp u s = .next t) : s.SameSetting t := by
  rcases execMicroOp_eq_next h with ⟨d, c, l, rfl, -⟩ | ⟨r, p, -, -, rfl⟩ | ⟨r, b, p, -, -, rfl⟩ | ⟨-, rfl⟩ |
    ⟨dv, us, rfl, -⟩ | ⟨rfl, -⟩
  · cases hu
  · exact (s.cfgLine_sameRegisters p).sameSetting
  · exact (s.drvLine_sameRegisters p b).sameSetting
  · exact (s.log_sameRegisters _).sameSetting
  · cases hu
  · cases hu

/-- WRITEDIGIT only drives and waits (R87). -/
theorem writesRegister_of_mem_writeDigitOps {f : Frame} {u : MicroOp} (h : u ∈ writeDigitOps f) :
    u.writesRegister = false := by
  simp only [writeDigitOps_eq, cellsOps, cellOps, pulseOps, List.mem_append, List.mem_flatMap, List.mem_cons,
    List.not_mem_nil, or_false] at h
  rcases h with ⟨b, -, rfl | rfl | rfl | rfl⟩ | rfl | rfl | rfl <;> rfl

/-- INITIALISE's register writes are its micro-operations 0, 7 and 8 (R85). -/
theorem initialiseOps_registerWrites {d c l : PinId} {dv : Bool} {us : Delay} {k : Nat} {u : MicroOp}
    (h : (initialiseOps d c l dv us)[k]? = some u) (hu : u.writesRegister = true) :
    (k = 0 ∧ u = .assignPins d c l) ∨ (k = 7 ∧ u = .delay dv us) ∨ (k = 8 ∧ u = .setInit) := by
  have hk : k < 9 := (List.getElem?_eq_some_iff.1 h).1
  interval_cases k <;> cases h <;> simp [MicroOp.writesRegister] at hu ⊢

/-- From `s` to `t` micro-operation `k` of the INITIALISE of these operands was executed by issuer `j` (R16). -/
def State.initialiseMoved (s t : State) (j : Nat) (d c l : PinId) (dv : Bool) (us : Delay) (k : Nat) : Prop :=
  s.seqAt j = some (.run (.initialise d c l dv us) k) ∧
    t.seqAt j = some (Cursor.after (.initialise d c l dv us) k)

/-- What one micro-operation in flight does to the setting. -/
theorem stepMicroOp_setting {j k : Nat} {cmd : Command} {s t : State} (hq : s.seqAt j = some (.run cmd k))
    (h : stepMicroOp j cmd k s = .next t) :
    s.SameSetting t ∨ ∃ d c l dv us,
      (s.initialiseMoved t j d c l dv us 0 ∧ (s.setPins d c l).SameSetting t) ∨
      (s.initialiseMoved t j d c l dv us 7 ∧ (s.optionalDelay dv us).SameSetting t) ∨
      (s.initialiseMoved t j d c l dv us 8 ∧ s.setInit.SameSetting t) := by
  obtain ⟨u, m, hu, hm, rfl⟩ := stepMicroOp_eq_next h
  have hkeep := m.setSeq_sameSetting j (Cursor.after cmd k)
  have hmoved : (m.setSeq j (Cursor.after cmd k)).seqAt j = some (Cursor.after cmd k) :=
    m.seqAt_setSeq_self j _ _ (by rw [State.seqAt, (execMicroOp_frame hm).1]; exact hq)
  cases hw : u.writesRegister with
  | false => exact .inl ((execMicroOp_sameSetting hw hm).trans hkeep)
  | true =>
    cases cmd with
    | writeDigit f => simp [writesRegister_of_mem_writeDigitOps (List.mem_of_getElem? hu)] at hw
    | initialise d c l dv us =>
      refine .inr ⟨d, c, l, dv, us, ?_⟩
      rcases initialiseOps_registerWrites hu hw with ⟨rfl, rfl⟩ | ⟨rfl, rfl⟩ | ⟨rfl, rfl⟩ <;> cases hm
      · exact .inl ⟨⟨hq, hmoved⟩, hkeep⟩
      · exact .inr (.inl ⟨⟨hq, hmoved⟩, hkeep⟩)
      · exact .inr (.inr ⟨⟨hq, hmoved⟩, hkeep⟩)

/-- What a step other than Reset does to the setting: nothing, or one of INITIALISE's three register writes, by the
issuer that moves. `s'` is `s` but for the turn taken. -/
theorem step_setting {s t : State} (h : step s = .next t) (hr : s.resetNext = false) :
    s.SameSetting t ∨ ∃ s' j d c l dv us, s.SameSetting s' ∧
      ((s.initialiseMoved t j d c l dv us 0 ∧ (s'.setPins d c l).SameSetting t) ∨
        (s.initialiseMoved t j d c l dv us 7 ∧ (s'.optionalDelay dv us).SameSetting t) ∨
        (s.initialiseMoved t j d c l dv us 8 ∧ s'.setInit.SameSetting t)) := by
  obtain ⟨-, s', hturn, rfl | ⟨j, cmd, k, hq, hm⟩ | ⟨j, i, w, ws, -, -, -, hp⟩⟩ := step_eq_next h hr
  · exact .inl hturn.sameSetting
  · obtain ⟨-, -, -, -, -, -, -, hissuers, -⟩ := hturn.frame
    have hseq : s'.seqAt j = s.seqAt j := by rw [State.seqAt, hissuers]; rfl
    rcases stepMicroOp_setting (hseq.trans hq) hm with hsame | ⟨d, c, l, dv, us, hwrite⟩
    · exact .inl (hturn.sameSetting.trans hsame)
    · refine .inr ⟨s', j, d, c, l, dv, us, hturn.sameSetting, ?_⟩
      have hof : ∀ {k}, s'.initialiseMoved t j d c l dv us k → s.initialiseMoved t j d c l dv us k :=
        fun hmoved => ⟨hseq ▸ hmoved.1, hmoved.2⟩
      exact hwrite.imp (And.imp_left hof) (Or.imp (And.imp_left hof) (And.imp_left hof))
  · have hscript : s'.SameSetting (s'.setScript j ws) := by constructor <;> rfl
    exact .inl (hturn.sameSetting.trans (hscript.trans (present_sameSetting hp)))

/-- Settles O28: by the one account of what a step does to the setting (`step_setting`), each register differs only in
the clause of its own micro-operation. -/
theorem registersAreWrittenOnlyByInitialise : Obligations.RegistersAreWrittenOnlyByInitialise := by
  unfold Obligations.RegistersAreWrittenOnlyByInitialise
  intro s t h hr
  have hkept : s.SameSetting t → ∀ {A B C : Prop},
      ((t.pinData ≠ s.pinData ∨ t.pinClock ≠ s.pinClock ∨ t.pinLatch ≠ s.pinLatch) → A) ∧
        (t.pulseDelay ≠ s.pulseDelay → B) ∧ (t.init ≠ s.init → C) := by
    intro hs
    simp [hs.init, hs.pinData, hs.pinClock, hs.pinLatch, hs.pulseDelay]
  rcases step_setting h hr with hs | ⟨s', j, d, c, l, dv, us, hs,
    ⟨⟨hq, hq'⟩, hw⟩ | ⟨⟨hq, hq'⟩, hw⟩ | ⟨⟨hq, hq'⟩, hw⟩⟩
  · exact hkept hs
  · -- micro-operation 0 writes the pin registers alone
    refine ⟨fun _ => ⟨j, d, c, l, dv, us, hq, hq', hw.pinData, hw.pinClock, hw.pinLatch⟩, ?_, ?_⟩
    · exact fun hne => absurd (hw.pulseDelay.trans hs.pulseDelay) hne
    · exact fun hne => absurd (hw.init.trans hs.init) hne
  · -- micro-operation 7 writes `PULSE_DELAY` alone, and only with the delay operand present
    cases dv with
    | false => exact hkept (hs.trans hw)
    | true =>
      refine ⟨?_, fun _ => ⟨j, d, c, l, us, hq, hq', hw.pulseDelay⟩, ?_⟩
      · simp [hw.pinData, hw.pinClock, hw.pinLatch, hs.pinData, hs.pinClock, hs.pinLatch]
      · exact fun hne => absurd (hw.init.trans hs.init) hne
  · -- micro-operation 8 writes `INIT` alone
    refine ⟨?_, ?_, fun _ => ⟨hw.init, j, d, c, l, dv, us, hq, hq'⟩⟩
    · simp [hw.pinData, hw.pinClock, hw.pinLatch, hs.pinData, hs.pinClock, hs.pinLatch]
    · exact fun hne => absurd (hw.pulseDelay.trans hs.pulseDelay) hne

end Sys2Proof.Machine

/-! PROOFS. The routines SHIFTOUT and PULSE by themselves (spec/41_shift_register_bus.md R75, R76), an accepted
WRITEDIGIT (spec/42_display_driver.md R87), and the one as the other two in a row. -/

namespace Sys2Proof.Machine

theorem State.hasPins_of_pinsAssigned {s : State} (h : s.pinsAssigned = true) : ∃ d c l, s.hasPins d c l := by
  simp only [State.pinsAssigned, Bool.and_eq_true, bne_iff_ne, ne_eq] at h
  obtain ⟨⟨hd, hc⟩, hl⟩ := h
  have pin_of_ne_x : ∀ r : PinReg, r ≠ .x → ∃ p, r = .pin p
    | .x, hr => absurd rfl hr
    | .pin p, _ => ⟨p, rfl⟩
  obtain ⟨d, hd⟩ := pin_of_ne_x _ hd
  obtain ⟨c, hc⟩ := pin_of_ne_x _ hc
  obtain ⟨l, hl⟩ := pin_of_ne_x _ hl
  exact ⟨d, c, l, hd, hc, hl⟩

/-- A routine runs its micro-operations unless the block is halted (R108). -/
theorem execRoutine_of_not_halted (us : List MicroOp) {s : State} (h : s.fault = .none) :
    execRoutine us s = execMicroOps us s := by
  simp [execRoutine, (State.halted_eq_false s).2 h]

theorem exec_shiftOut_of_hasPins {s : State} {d c l : PinId} (b : Byte) (hf : s.fault = .none) (h : s.hasPins d c l) :
    exec (.shiftOut b) s = .next (s.cellsOn d c (byteBitsMsbFirst b)) :=
  (execRoutine_of_not_halted _ hf).trans (execMicroOps_cells _ h.1 h.2.1)

theorem exec_pulse_of_pinReg {s : State} {q : PinId} (l : PulseLine) (hf : s.fault = .none)
    (h : s.pinReg (roleOfLine l) = .pin q) : exec (.pulse l) s = .next (s.pulseOn q) :=
  (execRoutine_of_not_halted _ hf).trans (execMicroOps_pulse h)

/-- A WRITEDIGIT in contract in the initialised state latches its frame (R17, R87). -/
theorem exec_writeDigit_accepted {s : State} {p : Byte} (pat : Byte) (hi : s.canIssue) (hinit : s.init = true)
    (hp : p.toNat < 8) :
    exec (.writeDigit p pat) s = .next (s.setSeq s.active (.run (.writeDigit (frameOf p pat)) 0)) := by
  have hr : positionInRange p = true := by simpa [positionInRange] using hp
  simp [exec, execWriteDigit, issue_of_canIssue s _ hi, hinit, hr]

theorem State.cellsOn_append (s : State) (d c : PinId) (bs bs' : List Bool) :
    s.cellsOn d c (bs ++ bs') = (s.cellsOn d c bs).cellsOn d c bs' := by
  induction bs generalizing s with
  | nil => rfl
  | cons b bs ih => exact ih _

/-- The state a WRITEDIGIT ends in: the address byte's cells, the pattern's cells, the latch pulse (R87). -/
theorem State.writeOn_frameOf (s : State) (d c l : PinId) (p pat : Byte) :
    s.writeOn d c l (frameOf p pat) =
      ((s.cellsOn d c (byteBitsMsbFirst (oneHot p))).cellsOn d c (byteBitsMsbFirst pat)).pulseOn l := by
  rw [State.writeOn, frameBitsMsbFirst, addrByte_frameOf, patternByte_frameOf, State.cellsOn_append]

/-- A WRITEDIGIT latched and given its 67 turns ends in its list's state (R41, R87). -/
theorem run_writeDigit {s : State} {d c l : PinId} (f : Frame) (rest : List Turn) (hi : s.canIssue)
    (h : s.hasPins d c l) (ht : s.turnsOf s.active 67 rest) :
    run 67 (s.setSeq s.active (.run (.writeDigit f) 0)) = .next ((s.writeOn d c l f).setSchedule rest) :=
  run_from_issue 67 s _ rest hi (writeDigitOps_length f).symm (by decide) ht (execMicroOps_writeDigit f h)

/-- Settles O39: both sides end in the state of `State.writeOn_frameOf`. -/
theorem writeDigitIsShiftOutTwiceThenLatchPulse : Obligations.WriteDigitIsShiftOutTwiceThenLatchPulse := by
  unfold Obligations.WriteDigitIsShiftOutTwiceThenLatchPulse
  intro s rest p pat hi hinit hp hpins ht
  obtain ⟨d, c, l, hdcl⟩ := State.hasPins_of_pinsAssigned hpins
  have keeps : ∀ {u v : State}, u.fault = .none → u.hasPins d c l → u.BusFrame v → v.fault = .none ∧ v.hasPins d c l :=
    fun hf h hb => ⟨hb.regs.fault.trans hf, hb.regs.pinData.trans h.1, hb.regs.pinClock.trans h.2.1,
      hb.regs.pinLatch.trans h.2.2⟩
  obtain ⟨hfa, ha⟩ := keeps hi.1 hdcl (s.cellsOn_busFrame d c (byteBitsMsbFirst (oneHot p)))
  obtain ⟨hfb, hb⟩ := keeps hfa ha (State.cellsOn_busFrame _ d c (byteBitsMsbFirst pat))
  refine ⟨_, _, _, _, exec_writeDigit_accepted pat hi hinit hp, exec_shiftOut_of_hasPins _ hi.1 hdcl,
    exec_shiftOut_of_hasPins pat hfa ha, exec_pulse_of_pinReg .latch hfb hb.2.2, ?_⟩
  rw [run_writeDigit _ rest hi hdcl ht, State.writeOn_frameOf]
  rfl

end Sys2Proof.Machine

/-! PROOFS. The cursors under each update of the state, and what any step, Reset included, can do
(spec/10_state.md R16). -/

namespace Sys2Proof.Machine

/-- An update of an issuer that keeps its cursor leaves every cursor. -/
theorem map_seq_modify (is : List Issuer) (j k : Nat) {f : Issuer → Issuer} (hf : ∀ i, (f i).seq = i.seq) :
    ((is.modify j f)[k]?).map (·.seq) = (is[k]?).map (·.seq) := by
  rw [List.getElem?_modify]
  cases is[k]? with
  | none => rfl
  | some i => by_cases h : j = k <;> simp [h, hf]

@[simp] theorem State.seqAt_setScript (s : State) (j k : Nat) (ws : List CommandWord) :
    (s.setScript j ws).seqAt k = s.seqAt k :=
  map_seq_modify s.issuers j k fun _ => rfl

@[simp] theorem State.seqAt_giveByte (s : State) (j k : Nat) (b : Byte) : (s.giveByte j b).seqAt k = s.seqAt k :=
  map_seq_modify s.issuers j k fun _ => rfl

/-- `SEQ[j] <- c` puts `c` at `j` at most, and nothing else anywhere. -/
theorem State.seqAt_setSeq_eq_some {s : State} {j k : Nat} {c d : Cursor} (h : (s.setSeq j c).seqAt k = some d) :
    d = c ∨ s.seqAt k = some d := by
  by_cases hk : k = j
  · subst hk
    have hk : ∃ i, s.issuers[k]? = some i ∧ c = d := by simpa [State.seqAt] using h
    obtain ⟨-, -, rfl⟩ := hk
    exact .inl rfl
  · exact .inr (s.seqAt_setSeq_other j k c hk ▸ h)

/-- Reset leaves every cursor `Idle` (R120). -/
theorem State.seqAt_resetEvent (s : State) (j : Nat) : s.resetEvent.seqAt j = (s.seqAt j).map fun _ => .idle := by
  simp [State.seqAt, Issuer.start, Function.comp_def]

theorem State.TurnTaken.seqAt {s s' : State} (h : s.TurnTaken s') (j : Nat) : s'.seqAt j = s.seqAt j := by
  obtain ⟨-, -, -, -, -, -, -, hissuers, -⟩ := h.frame
  rw [State.seqAt, hissuers, State.seqAt]

theorem step_of_resetNext {s : State} (h : s.resetNext = true) :
    ∃ ts, step s = .next (s.setSchedule ts).resetEvent := by
  rcases step_cases s with ⟨ts, -, hstep⟩ | ⟨hr, -⟩ | ⟨hr, -⟩
  · exact ⟨ts, hstep⟩
  · simp [h] at hr
  · simp [h] at hr

/-- What Reset, the taking of a turn, a `Step` and an `Issue` each keep, every step keeps (R16). -/
theorem step_keeps {P : State → Prop} {s t : State} (h : step s = .next t)
    (reset : ∀ ts, P (s.setSchedule ts).resetEvent)
    (turn : ∀ s', s.TurnTaken s' → P s')
    (micro : ∀ s' j c k, P s' → s'.seqAt j = some (.run c k) → stepMicroOp j c k s' = .next t → P t)
    (issue : ∀ s' j w ws, P s' → s'.fault = .none → s'.seqAt j = some .idle →
      present j w (s'.setScript j ws) = .next t → P t) : P t := by
  cases hr : s.resetNext with
  | true =>
    obtain ⟨ts, hstep⟩ := step_of_resetNext hr
    rw [hstep] at h
    cases h
    exact reset ts
  | false =>
    obtain ⟨hf, s', hturn, rfl | ⟨j, c, k, hq, hm⟩ | ⟨j, i, w, ws, hi, hq, -, hp⟩⟩ := step_eq_next h hr
    · exact turn t hturn
    · exact micro s' j c k (turn s' hturn) ((hturn.seqAt j).trans hq) hm
    · obtain ⟨-, -, -, -, -, hfault, -⟩ := hturn.frame
      refine issue s' j w ws (turn s' hturn) (hfault.trans hf) ?_ hp
      rw [hturn.seqAt, State.seqAt_of_getElem? hi, hq]

end Sys2Proof.Machine

/-! PROOFS. The invariant (spec/10_state.md R12, R16; spec/42_display_driver.md R88; spec/60_exceptions.md R101): every
step keeps it, and no step from it is refused. -/

namespace Sys2Proof.Machine

/-- The parts of the invariant by name, the cursors as `SEQ[j]`. -/
structure State.Inv (s : State) : Prop where
  lines : s.gpio.wf = true
  wires : s.params.wires.distinct = true
  pins : s.init = true → s.pinsAssigned = true
  cursors : ∀ j c, s.seqAt j = some c → s.cursorOk c = true
  record : s.recordOk = true

theorem State.inv_iff (s : State) : s.inv = true ↔ s.Inv := by
  have hcursors : (s.issuers.all fun i => s.cursorOk i.seq) = true ↔
      ∀ j c, s.seqAt j = some c → s.cursorOk c = true := by
    rw [List.all_eq_true]
    constructor
    · intro h j c hq
      obtain ⟨i, hi, rfl⟩ := State.seqAt_eq_some hq
      exact h i (List.mem_of_getElem? hi)
    · intro h i hi
      obtain ⟨j, hj⟩ := List.mem_iff_getElem?.1 hi
      exact h j i.seq (State.seqAt_of_getElem? hj)
  have hpins : (!s.init || s.pinsAssigned) = true ↔ (s.init = true → s.pinsAssigned = true) := by
    cases s.init <;> simp
  simp only [State.inv, Bool.and_eq_true, hcursors, hpins]
  exact ⟨fun ⟨⟨⟨⟨hl, hw⟩, hp⟩, hc⟩, hr⟩ => ⟨hl, hw, hp, hc, hr⟩,
    fun ⟨hl, hw, hp, hc, hr⟩ => ⟨⟨⟨⟨hl, hw⟩, hp⟩, hc⟩, hr⟩⟩

theorem State.cursorOk_initialise {s : State} {d c l : PinId} {dv : Bool} {us : Delay} {k : Nat} :
    s.cursorOk (.run (.initialise d c l dv us) k) = true ↔ k < 9 ∧ (k = 0 ∨ s.pinsAssigned = true) := by
  rw [State.cursorOk, Bool.and_eq_true, Bool.or_eq_true, decide_eq_true_eq, beq_iff_eq, initialiseOps_length]

theorem State.cursorOk_writeDigit {s : State} {f : Frame} {k : Nat} :
    s.cursorOk (.run (.writeDigit f) k) = true ↔
      k < 67 ∧ s.init = true ∧ ∃ q < 8, addrByte f = oneHot (BitVec.ofNat 8 q) := by
  simp [State.cursorOk, and_assoc]

theorem State.cursorOk_lt {s : State} {c : Command} {k : Nat} (h : s.cursorOk (.run c k) = true) :
    k < (microOpsOf c).length := by
  cases c with
  | initialise => simpa using (State.cursorOk_initialise.1 h).1
  | writeDigit => simpa using (State.cursorOk_writeDigit.1 h).1

/-- A cursor that is good stays good while pins stay assigned and `INIT` stays 1. -/
theorem State.cursorOk_mono {s t : State} {c : Cursor} (hpins : s.pinsAssigned = true → t.pinsAssigned = true)
    (hinit : s.init = true → t.init = true) (h : s.cursorOk c = true) : t.cursorOk c = true := by
  match c with
  | .idle => rfl
  | .run (.initialise ..) k =>
    rw [State.cursorOk_initialise] at h ⊢
    exact h.imp_right (Or.imp_right hpins)
  | .run (.writeDigit f) k =>
    rw [State.cursorOk_writeDigit] at h ⊢
    exact h.imp_right (And.imp_left hinit)

/-- Once the pins are assigned a good cursor moves on to a good one (R16). -/
theorem State.cursorOk_after {s : State} {c : Command} {k : Nat} (hpins : s.pinsAssigned = true)
    (h : s.cursorOk (.run c k) = true) : s.cursorOk (Cursor.after c k) = true := by
  unfold Cursor.after
  split
  · next hlt =>
    cases c with
    | initialise => exact State.cursorOk_initialise.2 ⟨by simpa using hlt, .inr hpins⟩
    | writeDigit => exact State.cursorOk_writeDigit.2 ⟨by simpa using hlt, (State.cursorOk_writeDigit.1 h).2⟩
  · rfl

/-- The address byte of an accepted WRITEDIGIT is `OneHot` of its position (R88). -/
theorem State.cursorOk_accepted {s : State} {p : Byte} (pat : Byte) (hinit : s.init = true)
    (hp : positionInRange p = true) : s.cursorOk (.run (.writeDigit (frameOf p pat)) 0) = true := by
  refine State.cursorOk_writeDigit.2 ⟨by decide, hinit, p.toNat, by simpa [positionInRange] using hp, ?_⟩
  rw [addrByte_frameOf, BitVec.ofNat_toNat, BitVec.setWidth_eq]

-- What each update of the state keeps of the invariant.

theorem State.Inv.turnTaken {s s' : State} (hs : s.Inv) (h : s.TurnTaken s') : s'.Inv := by
  rcases h with rfl | rfl | ⟨j, ts, -, rfl⟩
  · exact hs
  · exact ⟨hs.lines, hs.wires, hs.pins, hs.cursors, hs.record⟩
  · exact ⟨hs.lines, hs.wires, hs.pins, hs.cursors, hs.record⟩

theorem State.Inv.setActive {s : State} (hs : s.Inv) (j : Nat) : (s.setActive j).Inv :=
  ⟨hs.lines, hs.wires, hs.pins, hs.cursors, hs.record⟩

theorem State.Inv.tick {s : State} (hs : s.Inv) : s.tick.Inv :=
  ⟨hs.lines, hs.wires, hs.pins, hs.cursors, hs.record⟩

theorem State.Inv.setScript {s : State} (hs : s.Inv) (j : Nat) (ws : List CommandWord) : (s.setScript j ws).Inv :=
  ⟨hs.lines, hs.wires, hs.pins, fun k c h => hs.cursors k c (s.seqAt_setScript j k ws ▸ h), hs.record⟩

theorem State.Inv.giveByte {s : State} (hs : s.Inv) (j : Nat) (b : Byte) : (s.giveByte j b).Inv :=
  ⟨hs.lines, hs.wires, hs.pins, fun k c h => hs.cursors k c (s.seqAt_giveByte j k b ▸ h), hs.record⟩

theorem State.Inv.setSeq {s : State} (hs : s.Inv) (j : Nat) {c : Cursor} (hc : s.cursorOk c = true) :
    (s.setSeq j c).Inv := by
  refine ⟨hs.lines, hs.wires, hs.pins, fun k d h => ?_, hs.record⟩
  rcases State.seqAt_setSeq_eq_some h with rfl | h
  · exact State.cursorOk_mono id id hc
  · exact State.cursorOk_mono id id (hs.cursors k d h)

/-- A raise keeps the invariant when the record fits the code (R101, R104). -/
theorem State.Inv.raise {s : State} (hs : s.Inv) {code : FaultCode} {info : FaultInfo}
    (hr : (s.raise code info).recordOk = true) : (s.raise code info).Inv :=
  ⟨hs.lines, hs.wires, hs.pins, fun k d h => State.cursorOk_mono id id (hs.cursors k d h), hr⟩

theorem State.Inv.resetEvent {s : State} (hs : s.Inv) : s.resetEvent.Inv := by
  refine ⟨rfl, hs.wires, (by cases ·), fun j c h => ?_, rfl⟩
  rw [State.seqAt_resetEvent, Option.map_eq_some_iff] at h
  obtain ⟨-, -, rfl⟩ := h
  rfl

/-- The cases of `exec_command_eq_next`, each an update above. -/
theorem State.Inv.exec_command {s t : State} {i : Instr} (hs : s.Inv) (hw : i.wf = true) (h : exec i s = .next t) :
    t.Inv := by
  obtain ⟨-, ⟨d, c, l, dv, us, -, rfl⟩ | ⟨p, pat, -, -, rfl⟩ | ⟨p, pat, -, -, hp, rfl⟩ | ⟨p, pat, -, hinit, hp, rfl⟩ |
    ⟨x, b, -, -, rfl⟩ | ⟨x, -, -, rfl⟩⟩ := exec_command_eq_next hw h
  · exact hs.setSeq _ (State.cursorOk_initialise.2 ⟨by decide, .inl rfl⟩)
  · exact hs.raise rfl
  · exact hs.raise (by simp [State.recordOk, hp])
  · exact hs.setSeq _ (State.cursorOk_accepted pat hinit hp)
  · exact hs.giveByte _ b
  · exact (hs.giveByte _ _).tick

theorem State.Inv.present {j : Nat} {w : CommandWord} {s t : State} (hs : s.Inv) (h : present j w s = .next t) :
    t.Inv := by
  rcases present_eq_next h with ⟨e, he, rfl⟩ | ⟨i, -, hw, hi⟩
  · exact (hs.setActive j).raise (by simp [State.recordOk, he])
  · exact (hs.setActive j).exec_command hw hi

/-- A micro-operation keeps the lines canonical and never takes `INIT` or the pins back. -/
theorem execMicroOp_mono {u : MicroOp} {s t : State} (h : execMicroOp u s = .next t) :
    (s.gpio.wf = true → t.gpio.wf = true) ∧ (s.init = true → t.init = true) ∧
      (s.pinsAssigned = true → t.pinsAssigned = true) := by
  rcases execMicroOp_eq_next h with ⟨d, c, l, -, rfl⟩ | ⟨r, p, -, -, rfl⟩ | ⟨r, b, p, -, -, rfl⟩ | ⟨-, rfl⟩ |
    ⟨dv, us, -, rfl⟩ | ⟨-, rfl⟩
  · exact ⟨id, id, fun _ => rfl⟩
  · exact ⟨Gpio.wf_configure _ p, id, id⟩
  · exact ⟨Gpio.wf_drive _ p b, id, id⟩
  · exact ⟨id, id, id⟩
  · cases dv <;> exact ⟨id, id, id⟩
  · exact ⟨id, fun _ => rfl, id⟩

/-- A good cursor's next micro-operation finds the pins assigned, or assigns them (R12). -/
theorem State.Inv.pinsAssigned_or_assigns {s : State} {j k : Nat} {c : Command} (hs : s.Inv)
    (hq : s.seqAt j = some (.run c k)) :
    s.pinsAssigned = true ∨ ∃ d cl l, (microOpsOf c)[k]? = some (.assignPins d cl l) := by
  have hok := hs.cursors j _ hq
  cases c with
  | initialise d cl l dv us =>
    rcases (State.cursorOk_initialise.1 hok).2 with rfl | hp
    · exact .inr ⟨d, cl, l, rfl⟩
    · exact .inl hp
  | writeDigit f => exact .inl (hs.pins (State.cursorOk_writeDigit.1 hok).2.1)

theorem State.Inv.stepMicroOp {j k : Nat} {c : Command} {s t : State} (hs : s.Inv)
    (hq : s.seqAt j = some (.run c k)) (h : stepMicroOp j c k s = .next t) : t.Inv := by
  obtain ⟨u, m, hu, hm, rfl⟩ := stepMicroOp_eq_next h
  obtain ⟨hissuers, -, hparams, -, -, hfault, hinfo⟩ := execMicroOp_frame hm
  obtain ⟨hwf, hinit, hpins⟩ := execMicroOp_mono hm
  have hassigned : m.pinsAssigned = true := by
    rcases hs.pinsAssigned_or_assigns hq with hp | ⟨d, cl, l, ha⟩
    · exact hpins hp
    · rw [ha] at hu
      cases hu
      cases hm
      rfl
  have hm' : m.Inv := by
    refine ⟨hwf hs.lines, hparams ▸ hs.wires, fun _ => hassigned, fun i d hd => ?_, ?_⟩
    · rw [State.seqAt, hissuers] at hd
      exact State.cursorOk_mono hpins hinit (hs.cursors i d hd)
    · rw [State.recordOk, hfault, hinfo]
      exact hs.record
  exact hm'.setSeq j (State.cursorOk_after hassigned (State.cursorOk_mono hpins hinit (hs.cursors j _ hq)))

/-- Settles O53: Reset, the taking of a turn, `Step` and `Issue` each keep the invariant. -/
theorem everyStepKeepsTheInvariant : Obligations.EveryStepKeepsTheInvariant := by
  unfold Obligations.EveryStepKeepsTheInvariant
  intro s t hs h
  rw [State.inv_iff] at hs ⊢
  refine step_keeps h (fun ts => ?_) (fun s' => hs.turnTaken) (fun s' j c k hs' hq hm => hs'.stepMicroOp hq hm)
    (fun s' j w ws hs' _ _ hp => (hs'.setScript j ws).present hp)
  exact State.Inv.resetEvent ⟨hs.lines, hs.wires, hs.pins, hs.cursors, hs.record⟩

/-- INITIALISE is accepted in either state of `INIT` and latches its operands (R17, R85). -/
theorem exec_initialise_accepted {s : State} (d c l : PinId) (dv : Bool) (us : Delay) (h : s.canIssue) :
    exec (.initialise d c l dv us) s = .next (s.setSeq s.active (.run (.initialise d c l dv us) 0)) := by
  rw [exec, execInitialise, issue_of_canIssue s _ h]

/-- A command whose `Issue` is enabled is not refused: it is accepted or raises its fault (R16). -/
theorem exec_command_total {s : State} {i : Instr} (hw : i.wf = true) (h : s.canIssue) : ∃ t, exec i s = .next t := by
  cases i with
  | initialise d c l dv us => exact ⟨_, exec_initialise_accepted d c l dv us h⟩
  | writeDigit p pat =>
    simp only [exec, execWriteDigit, issue_of_canIssue s _ h]
    split
    · exact ⟨_, rfl⟩
    · split <;> exact ⟨_, rfl⟩
  | digits x =>
    simp only [exec, execDigits, issue_of_canIssue s _ h]
    split <;> exact ⟨_, rfl⟩
  | shiftOut => simp [Instr.wf] at hw
  | pulse => simp [Instr.wf] at hw

theorem present_total {j : Nat} (w : CommandWord) {s : State} (hf : s.fault = .none) (hq : s.seqAt j = some .idle) :
    ∃ t, present j w s = .next t := by
  unfold present
  split
  · next i hi => exact exec_command_total (decode_wf hi) ⟨hf, hq⟩
  · exact ⟨_, rfl⟩

/-- With the pins assigned every micro-operation has a next state (R12, R19). -/
theorem execMicroOp_total {s : State} (u : MicroOp) (h : s.pinsAssigned = true) : ∃ t, execMicroOp u s = .next t := by
  obtain ⟨d, c, l, hd, hc, hl⟩ := State.hasPins_of_pinsAssigned h
  have hreg : ∀ r, ∃ p, s.pinReg r = .pin p
    | .data => ⟨d, hd⟩
    | .clock => ⟨c, hc⟩
    | .latch => ⟨l, hl⟩
  cases u with
  | cfg r => obtain ⟨p, hp⟩ := hreg r; exact ⟨_, execMicroOp_cfg hp⟩
  | drv r b => obtain ⟨p, hp⟩ := hreg r; exact ⟨_, execMicroOp_drv b hp⟩
  | assignPins | wait | delay | setInit => exact ⟨_, rfl⟩

theorem State.Inv.stepMicroOp_total {j k : Nat} {c : Command} {s : State} (hs : s.Inv)
    (hq : s.seqAt j = some (.run c k)) : ∃ t, Machine.stepMicroOp j c k s = .next t := by
  have hu := List.getElem?_eq_getElem (State.cursorOk_lt (hs.cursors j _ hq))
  have hm : ∃ m, execMicroOp ((microOpsOf c)[k]'(State.cursorOk_lt (hs.cursors j _ hq))) s = .next m := by
    rcases hs.pinsAssigned_or_assigns hq with hp | ⟨d, cl, l, ha⟩
    · exact execMicroOp_total _ hp
    · rw [hu, Option.some_inj] at ha
      exact ⟨s.setPins d cl l, by rw [ha]; rfl⟩
  obtain ⟨m, hm⟩ := hm
  exact ⟨m.setSeq j (Cursor.after c k), by simp [Machine.stepMicroOp, hu, hm]⟩

/-- Settles O54: from the invariant each transition has a next state or is the stuck fault. -/
theorem noStepOfARunIsRefused : Obligations.NoStepOfARunIsRefused := by
  unfold Obligations.NoStepOfARunIsRefused
  intro s r hinv
  have hs := (State.inv_iff s).1 hinv
  rcases step_cases s with ⟨ts, -, hstep⟩ | ⟨-, -, -, hstep⟩ | ⟨-, j, s', hturn, hstep, -⟩ <;> rw [hstep]
  · simp
  · split <;> simp
  · rcases advance_cases j s' with ⟨-, ha⟩ | ⟨-, -, ha⟩ | ⟨-, i, c, k, hi, hq, ha⟩ | ⟨hf, i, w, ws, hi, hq, -, ha⟩ <;>
      rw [ha]
    · simp
    · simp
    · obtain ⟨t, ht⟩ := (hs.turnTaken hturn).stepMicroOp_total (c := c) (k := k) (by rw [State.seqAt_of_getElem? hi, hq])
      simp [ht]
    · obtain ⟨t, ht⟩ := present_total (j := j) w (s := s'.setScript j ws) hf
        (by rw [State.seqAt_setScript, State.seqAt_of_getElem? hi, hq])
      simp [ht]

end Sys2Proof.Machine

/-! PROOFS. What every step leaves or lets grow: the parameters (spec/10_state.md R15, spec/20_memory.md R33), `TRACE`
(R20), and a command in flight (R16, R17), which a weakly fair run brings to its end (spec/70_reset_and_hazards.md
R131). -/

namespace Sys2Proof.Machine

/-- Issuing a command writes no parameter and appends no event. -/
theorem exec_command_frame {s t : State} {i : Instr} (hw : i.wf = true) (h : exec i s = .next t) :
    t.params = s.params ∧ t.trace = s.trace := by
  obtain ⟨-, ⟨d, c, l, dv, us, -, rfl⟩ | ⟨p, pat, -, -, rfl⟩ | ⟨p, pat, -, -, -, rfl⟩ | ⟨p, pat, -, -, -, rfl⟩ |
    ⟨x, b, -, -, rfl⟩ | ⟨x, -, -, rfl⟩⟩ := exec_command_eq_next hw h <;> exact ⟨rfl, rfl⟩

theorem present_frame {j : Nat} {w : CommandWord} {s t : State} (h : present j w s = .next t) :
    t.params = s.params ∧ t.trace = s.trace := by
  rcases present_eq_next h with ⟨e, -, rfl⟩ | ⟨i, -, hw, hi⟩
  · exact ⟨rfl, rfl⟩
  · simpa using exec_command_frame hw hi

/-- Settles O45: Reset, the taking of a turn, `Step` and `Issue` each keep the parameters. -/
theorem parametersNeverChange : Obligations.ParametersNeverChange := by
  unfold Obligations.ParametersNeverChange
  intro s t h
  refine step_keeps (P := fun x => x.params = s.params) h (fun _ => rfl) ?_ ?_ ?_
  · intro s' hturn
    obtain ⟨-, -, -, -, -, -, -, -, -, -, -, hparams, -⟩ := hturn.frame
    exact hparams
  · intro s' j c k hs' _ hm
    obtain ⟨u, m, -, hu, rfl⟩ := stepMicroOp_eq_next hm
    obtain ⟨-, -, hparams, -⟩ := execMicroOp_frame hu
    exact hparams.trans hs'
  · intro s' j w ws hs' _ _ hp
    exact (present_frame hp).1.trans hs'

/-- A micro-operation appends at most one event (R19, R20). -/
theorem execMicroOp_trace {u : MicroOp} {s t : State} (h : execMicroOp u s = .next t) :
    t.trace = s.trace ∨ ∃ e, t.trace = s.trace ++ [e] := by
  rcases execMicroOp_eq_next h with ⟨d, c, l, -, rfl⟩ | ⟨r, p, -, -, rfl⟩ | ⟨r, b, p, -, -, rfl⟩ | ⟨-, rfl⟩ |
    ⟨dv, us, -, rfl⟩ | ⟨-, rfl⟩
  · exact .inl rfl
  · exact .inr ⟨.cfg p, rfl⟩
  · exact .inr ⟨.drv p b, rfl⟩
  · exact .inr ⟨.wait s.pulseDelay, rfl⟩
  · exact .inl (State.optionalDelay_trace s dv us)
  · exact .inl rfl

/-- Settles O56: only a `Step` writes `TRACE`, and it executes one micro-operation. -/
theorem traceGrowsByAtMostOneEvent : Obligations.TraceGrowsByAtMostOneEvent := by
  unfold Obligations.TraceGrowsByAtMostOneEvent
  intro s t h hr
  obtain ⟨-, s', hturn, hact⟩ := step_eq_next h hr
  obtain ⟨-, -, -, -, -, -, -, -, -, -, htrace, -⟩ := hturn.frame
  rw [← htrace]
  rcases hact with rfl | ⟨j, c, k, -, hm⟩ | ⟨j, i, w, ws, -, -, -, hp⟩
  · exact .inl rfl
  · obtain ⟨u, m, -, hu, rfl⟩ := stepMicroOp_eq_next hm
    simpa using execMicroOp_trace hu
  · exact .inl (present_frame hp).2

theorem Cursor.after_of_lt {c : Command} {k : Nat} (h : k + 1 < (microOpsOf c).length) :
    Cursor.after c k = .run c (k + 1) :=
  if_pos h

theorem Cursor.after_of_last {c : Command} {k : Nat} (h : k + 1 = (microOpsOf c).length) : Cursor.after c k = .idle :=
  if_neg (by omega)

/-- An enabled `Issue` finds its issuer `Idle`, so it leaves every running cursor (R16). -/
theorem exec_command_seqAt_run {s t : State} {i : Instr} {j k : Nat} {c : Command} (hw : i.wf = true)
    (h : exec i s = .next t) (hq : s.seqAt j = some (.run c k)) : t.seqAt j = some (.run c k) := by
  obtain ⟨⟨-, hidle⟩, hact⟩ := exec_command_eq_next hw h
  have hj : j ≠ s.active := by
    rintro rfl
    simp [hidle] at hq
  have hset : ∀ d, (s.setSeq s.active d).seqAt j = some (.run c k) :=
    fun d => (s.seqAt_setSeq_other s.active j d hj).trans hq
  rcases hact with ⟨d, cl, l, dv, us, -, rfl⟩ | ⟨p, pat, -, -, rfl⟩ | ⟨p, pat, -, -, -, rfl⟩ | ⟨p, pat, -, -, -, rfl⟩ |
    ⟨x, b, -, -, rfl⟩ | ⟨x, -, -, rfl⟩
  · exact hset _
  · exact hq
  · exact hq
  · exact hset _
  · exact (s.seqAt_giveByte s.active j b).trans hq
  · exact (s.seqAt_giveByte s.active j _).trans hq

theorem present_seqAt_run {s t : State} {w : CommandWord} {j i k : Nat} {c : Command} (h : present i w s = .next t)
    (hq : s.seqAt j = some (.run c k)) : t.seqAt j = some (.run c k) := by
  rcases present_eq_next h with ⟨e, -, rfl⟩ | ⟨cmd, -, hw, hi⟩
  · exact hq
  · exact exec_command_seqAt_run hw hi hq

/-- Outside Reset a running cursor stays, or its issuer's `Step` moves it on (R16). -/
theorem step_seqAt_run {s t : State} {j k : Nat} {c : Command} (h : step s = .next t) (hr : s.resetNext = false)
    (hq : s.seqAt j = some (.run c k)) :
    t.seqAt j = some (.run c k) ∨ (k < (microOpsOf c).length ∧ t.seqAt j = some (Cursor.after c k)) := by
  obtain ⟨-, s', hturn, hact⟩ := step_eq_next h hr
  have hq' : s'.seqAt j = some (.run c k) := (hturn.seqAt j).trans hq
  rcases hact with rfl | ⟨i, c', k', hi, hm⟩ | ⟨i, iss, w, ws, -, -, -, hp⟩
  · exact .inl hq'
  · obtain ⟨u, m, hu, hx, rfl⟩ := stepMicroOp_eq_next hm
    have hqm : m.seqAt j = some (.run c k) := by rw [State.seqAt, (execMicroOp_frame hx).1]; exact hq'
    by_cases hij : j = i
    · subst hij
      rw [hq, Option.some_inj, Cursor.run.injEq] at hi
      obtain ⟨rfl, rfl⟩ := hi
      exact .inr ⟨(List.getElem?_eq_some_iff.1 hu).1, m.seqAt_setSeq_self j _ _ hqm⟩
    · exact .inl ((m.seqAt_setSeq_other i j _ hij).trans hqm)
  · exact .inl (present_seqAt_run hp ((s'.seqAt_setScript i j ws).trans hq'))

/-- Settles O58: the cursor after a `Step`, with the last micro-operation told apart. -/
theorem commandsInFlightAreNeverCancelled : Obligations.CommandsInFlightAreNeverCancelled := by
  unfold Obligations.CommandsInFlightAreNeverCancelled
  intro s t j k c h hr hq
  rcases step_seqAt_run h hr hq with hstay | ⟨hk, hmove⟩
  · exact .inl hstay
  · rcases Nat.lt_or_eq_of_le hk with hlt | heq
    · exact .inr (.inl ⟨hlt, by rw [hmove, Cursor.after_of_lt hlt]⟩)
    · exact .inr (.inr ⟨heq, by rw [hmove, Cursor.after_of_last heq]⟩)

/-- A Reset ends the command in flight (R90, R120). -/
theorem step_seqAt_of_resetNext {s t : State} {j : Nat} {d : Cursor} (h : step s = .next t) (hr : s.resetNext = true)
    (hq : s.seqAt j = some d) : t.seqAt j = some .idle := by
  obtain ⟨ts, hstep⟩ := step_of_resetNext hr
  rw [hstep] at h
  cases h
  rw [State.seqAt_resetEvent]
  exact congrArg (Option.map _) hq

/-- In an endless run a command in flight comes to its end, or is in flight for ever, its micro-operations never going
back. -/
theorem EndlessRun.idle_or_running {r : Nat → State} {j n k : Nat} {c : Command} (hr : EndlessRun r)
    (hq : (r n).seqAt j = some (.run c k)) {m : Nat} (hm : n ≤ m) :
    (∃ m', n ≤ m' ∧ (r m').seqAt j = some .idle) ∨ ∃ k', k ≤ k' ∧ (r m).seqAt j = some (.run c k') := by
  induction m, hm using Nat.le_induction with
  | base => exact .inr ⟨k, le_rfl, hq⟩
  | succ m hm ih =>
    rcases ih with hidle | ⟨k', hk, hrun⟩
    · exact .inl hidle
    · cases hreset : (r m).resetNext with
      | true => exact .inl ⟨m + 1, by omega, step_seqAt_of_resetNext (hr m) hreset hrun⟩
      | false =>
        rcases step_seqAt_run (hr m) hreset hrun with hstay | ⟨hlt, hmove⟩
        · exact .inr ⟨k', hk, hstay⟩
        · rcases Nat.lt_or_eq_of_le hlt with hlt | heq
          · exact .inr ⟨k' + 1, by omega, by rw [hmove, Cursor.after_of_lt hlt]⟩
          · exact .inl ⟨m + 1, by omega, by rw [hmove, Cursor.after_of_last heq]⟩

/-- In an endless run a running cursor's `Step` is enabled where the next step is no Reset: a halted block would be
stuck (R108). -/
theorem EndlessRun.stepEnabled {r : Nat → State} {j m k : Nat} {c : Command} (hr : EndlessRun r)
    (hq : (r m).seqAt j = some (.run c k)) (hreset : (r m).resetNext = false) : (r m).stepEnabled j :=
  ⟨(step_eq_next (hr m) hreset).1, c, k, hq⟩

/-- Settles O60, by induction on the micro-operations left: a `Step` that stays enabled is taken (R131), and one that
does not is cut off by a Reset. -/
theorem fairRunsEndEveryCommandInFlight : Obligations.FairRunsEndEveryCommandInFlight := by
  unfold Obligations.FairRunsEndEveryCommandInFlight
  intro r j n k c hr hfair hq
  induction hleft : (microOpsOf c).length - k using Nat.strong_induction_on generalizing n k with
  | _ left ih =>
    by_contra hnever
    have hrunning : ∀ m, n ≤ m → ∃ k', k ≤ k' ∧ (r m).seqAt j = some (.run c k') :=
      fun m hm => (hr.idle_or_running hq hm).resolve_left hnever
    have hnoReset : ∀ m, n ≤ m → (r m).resetNext = false := by
      intro m hm
      obtain ⟨k', -, hrun⟩ := hrunning m hm
      by_contra hreset
      exact hnever ⟨m + 1, by omega, step_seqAt_of_resetNext (hr m) (by simpa using hreset) hrun⟩
    have henabled : ∀ m, n ≤ m → (r m).stepEnabled j := by
      intro m hm
      obtain ⟨k', -, hrun⟩ := hrunning m hm
      exact hr.stepEnabled hrun (hnoReset m hm)
    obtain ⟨m, hm, -, c', k', hrun', hmoved⟩ := hfair j n henabled
    obtain ⟨k₁, hk₁, hrun⟩ := hrunning m hm
    rw [hrun, Option.some_inj, Cursor.run.injEq] at hrun'
    obtain ⟨rfl, rfl⟩ := hrun'
    by_cases hlt : k₁ + 1 < (microOpsOf c).length
    · rw [Cursor.after_of_lt hlt] at hmoved
      obtain ⟨m', hm', hidle⟩ := ih _ (by omega) (m + 1) (k₁ + 1) hmoved rfl
      exact hnever ⟨m', by omega, hidle⟩
    · exact hnever ⟨m + 1, by omega, by rw [hmoved, Cursor.after, if_neg hlt]⟩

end Sys2Proof.Machine

/-! PROOFS. Changes of the state that the block does not see: the table but by DIGITS (spec/10_state.md R15,
spec/40_digit_encoder.md R73), and the free values' counter but by DIGITS above 11 (R16). -/

namespace Sys2Proof.Machine

/-- `f` changes nothing that a micro-operation or the issue of a command other than DIGITS reads, and nothing that one
writes. -/
structure State.Unread (f : State → State) : Prop where
  pinReg : ∀ s r, (f s).pinReg r = s.pinReg r
  init : ∀ s, (f s).init = s.init
  fault : ∀ s, (f s).fault = s.fault
  issuers : ∀ s, (f s).issuers = s.issuers
  active : ∀ s, (f s).active = s.active
  setPins : ∀ s d c l, (f s).setPins d c l = f (s.setPins d c l)
  cfgLine : ∀ s p, (f s).cfgLine p = f (s.cfgLine p)
  drvLine : ∀ s p b, (f s).drvLine p b = f (s.drvLine p b)
  logWait : ∀ s, (f s).log (.wait (f s).pulseDelay) = f (s.log (.wait s.pulseDelay))
  setDelay : ∀ s d, (f s).setDelay d = f (s.setDelay d)
  setInit : ∀ s, (f s).setInit = f s.setInit
  setSeq : ∀ s j c, (f s).setSeq j c = f (s.setSeq j c)
  raise : ∀ s code info, (f s).raise code info = f (s.raise code info)

/-- Other entries `TABLE[1..9]`. -/
def State.withNumerals (n : Vector Byte 9) (s : State) : State := { s with params := { s.params with numerals := n } }

theorem State.withNumerals_unread (n : Vector Byte 9) : State.Unread (State.withNumerals n) := by
  constructor <;> intros <;> rfl

/-- Another counter of the free values. -/
def State.withFresh (n : Nat) (s : State) : State := { s with fresh := n }

theorem State.withFresh_unread (n : Nat) : State.Unread (State.withFresh n) := by
  constructor <;> intros <;> rfl

/-- `g` does the same after the change `f` of the state, the change left over. -/
def Commutes (f : State → State) (g : State → Result) : Prop :=
  ∀ s, g (f s) = andThen (g s) fun t => .next (f t)

section
variable {f : State → State} (hf : State.Unread f)
include hf

theorem State.Unread.withPin {act : State → PinId → State} (hact : ∀ s p, act (f s) p = f (act s p)) (r : Role) :
    Commutes f fun s => withPin r s (act s) := by
  intro s
  simp only [Machine.withPin, hf.pinReg]
  cases s.pinReg r with
  | x => rfl
  | pin p => simp [hact]

theorem State.Unread.execMicroOp (u : MicroOp) : Commutes f (execMicroOp u) := by
  intro s
  cases u with
  | assignPins d c l => exact congrArg _ (hf.setPins s d c l)
  | cfg r => exact hf.withPin (act := fun s p => s.cfgLine p) hf.cfgLine r s
  | drv r b => exact hf.withPin (act := fun s p => s.drvLine p b) (fun s p => hf.drvLine s p b) r s
  | wait => exact congrArg _ (hf.logWait s)
  | delay dv us =>
    cases dv with
    | false => rfl
    | true => exact congrArg _ (hf.setDelay s us)
  | setInit => exact congrArg _ (hf.setInit s)

theorem State.Unread.execMicroOps (us : List MicroOp) : Commutes f (execMicroOps us) := by
  intro s
  induction us generalizing s with
  | nil => rfl
  | cons u us ih =>
    rw [execMicroOps_cons, execMicroOps_cons, hf.execMicroOp u s]
    cases Machine.execMicroOp u s with
    | next m => exact ih m
    | fault e => rfl
    | refused e => rfl

theorem State.Unread.halted (s : State) : (f s).halted = s.halted := by
  rw [State.halted, hf.fault, State.halted]

theorem State.Unread.execRoutine (us : List MicroOp) : Commutes f (execRoutine us) := by
  intro s
  simp only [Machine.execRoutine, hf.halted, hf.fault]
  split
  · rfl
  · exact hf.execMicroOps us s

/-- The gate of `Issue` reads `FAULT`, the presenting issuer and its cursor (R16). -/
theorem State.Unread.issue {accepted : State → Result} (ha : Commutes f accepted) :
    Commutes f fun s => issue s accepted := by
  intro s
  simp only [Machine.issue, hf.halted, hf.fault, hf.issuers, hf.active]
  split
  · rfl
  · split
    · rfl
    · split
      · exact ha s
      · rfl

theorem State.Unread.exec {i : Instr} (hi : ∀ index, i ≠ .digits index) : Commutes f (exec i) := by
  cases i with
  | initialise d c l dv us => exact hf.issue fun s => by simp [hf.active, hf.setSeq]
  | writeDigit p pat =>
    refine hf.issue fun s => ?_
    simp only [hf.init, hf.active, hf.setSeq, hf.raise]
    split
    · rfl
    · split <;> rfl
  | digits index => exact absurd rfl (hi index)
  | shiftOut b => exact hf.execRoutine _
  | pulse l => exact hf.execRoutine _

end

/-- Settles O46: the entries 1 to 9 are unread. -/
theorem onlyDigitsReadsTheTable : Obligations.OnlyDigitsReadsTheTable := by
  unfold Obligations.OnlyDigitsReadsTheTable
  intro s n
  have hf := State.withNumerals_unread n
  exact ⟨fun i hi => hf.exec hi s, fun u => hf.execMicroOp u s⟩

/-- Every index up to 11 has its entry (R70). -/
theorem tableAt_isSome {p : Params} {index : Byte} (h : index.toNat ≤ 11) : ∃ b, tableAt p index = some b := by
  have hlen : (tableEntries p).length = 12 := by simp [tableEntries]
  exact ⟨_, List.getElem?_eq_getElem (by omega)⟩

/-- A command draws a free value only as a DIGITS above 11 (R16, R72). -/
theorem exec_withFresh {i : Instr} (n : Nat) (hi : ∀ index, i = .digits index → index.toNat ≤ 11) :
    Commutes (State.withFresh n) (exec i) := by
  have hf := State.withFresh_unread n
  cases i with
  | digits index =>
    refine hf.issue fun s => ?_
    obtain ⟨b, hb⟩ := tableAt_isSome (p := s.params) (hi index rfl)
    have hb' : tableAt (s.withFresh n).params index = some b := hb
    simp only [hb, hb', andThen_next]
    rfl
  | initialise | writeDigit | shiftOut | pulse => exact hf.exec (by simp)

theorem stepMicroOp_withFresh (n j : Nat) (c : Command) (k : Nat) :
    Commutes (State.withFresh n) (stepMicroOp j c k) := by
  intro s
  unfold stepMicroOp
  cases (microOpsOf c)[k]? with
  | none => rfl
  | some u =>
    simp only [(State.withFresh_unread n).execMicroOp u s]
    cases execMicroOp u s <;> rfl

theorem present_withFresh (n j : Nat) {w : CommandWord}
    (hw : ∀ index, decode w = .ok (.digits index) → index.toNat ≤ 11) :
    Commutes (State.withFresh n) (present j w) := by
  intro s
  unfold present
  cases hd : decode w with
  | error e => rfl
  | ok i => exact exec_withFresh n (fun index hi => hw index (hi ▸ hd)) (s.setActive j)

/-- With one issuer the transitions to choose from are its own, if it has one. -/
theorem step_of_single_issuer {s : State} {i : Issuer} (hs : s.schedule = []) (hi : s.issuers = [i]) :
    step s = if i.ready then advance 0 s else if s.halted then .fault (.halted s.fault) else .next s := by
  cases hr : i.ready <;> simp [step, transition, hs, hi, readyFrom, hr]

theorem advance_withFresh (n : Nat) {s : State} {i : Issuer} (hi : s.issuers = [i])
    (hw : ∀ w ws index, i.seq = .idle → i.script = w :: ws → decode w = .ok (.digits index) → index.toNat ≤ 11) :
    advance 0 (s.withFresh n) = andThen (advance 0 s) fun t => .next (t.withFresh n) := by
  have hh : (s.withFresh n).halted = s.halted := (State.withFresh_unread n).halted s
  have hi' : (s.withFresh n).issuers = [i] := hi
  obtain ⟨seq, script, returned⟩ := i
  simp only [advance, hh, hi, hi', List.getElem?_cons_zero]
  split
  · rfl
  · cases seq with
    | run c k => exact stepMicroOp_withFresh n 0 c k s
    | idle =>
      cases script with
      | nil => rfl
      | cons w ws => exact present_withFresh n 0 (fun index => hw w ws index rfl rfl) (s.setScript 0 ws)

/-- Settles O18: the one issuer's transition is the step, and only a DIGITS above 11 reads the counter. -/
theorem singleIssuerNeedsNoSchedule : Obligations.SingleIssuerNeedsNoSchedule := by
  unfold Obligations.SingleIssuerNeedsNoSchedule
  intro s i hs hi hf
  have hstep := step_of_single_issuer hs hi
  have hh := (State.halted_eq_false s).2 hf
  refine ⟨fun hr => by simp [hstep, hr], fun hr => by simp [hstep, hr, hh], fun hw n => ?_⟩
  change step (s.withFresh n) = _
  rw [hstep, step_of_single_issuer (s := s.withFresh n) hs hi, (State.withFresh_unread n).halted, hh]
  cases i.ready with
  | true => exact advance_withFresh n hi hw
  | false => rfl

end Sys2Proof.Machine

/-! PROOFS. The state after reset (spec/10_state.md section 8), the transitions `Issue` and `Step` (R16), and the
micro-operations (R19), each with what it leaves unchanged. -/

namespace Sys2Proof.Machine

/-- Settles O9: every value is that of `State.resetFor`, every listed cursor an `Idle` one. -/
theorem resetLeavesTheStatedValues : Obligations.ResetLeavesTheStatedValues := by
  unfold Obligations.ResetLeavesTheStatedValues
  intro n ps
  have hseq : ∀ j c, (State.resetFor n ps).seqAt j = some c → c = .idle := by
    intro j c h
    obtain ⟨i, hi, rfl⟩ := State.seqAt_eq_some h
    have hmem : i ∈ List.replicate n (Issuer.start []) := List.mem_of_getElem? hi
    rw [List.eq_of_mem_replicate hmem]
    rfl
  exact ⟨rfl, rfl, rfl, rfl, rfl, rfl, List.length_replicate, hseq, fun p => Gpio.line_nil p,
    fun i h => ⟨Cells.allX_get i h, Cells.allX_get i h⟩, rfl⟩

/-- An `Idle` issuer's turn presents its next word (R16). -/
theorem advance_of_idle {s : State} {j : Nat} {i : Issuer} {w : CommandWord} {ws : List CommandWord}
    (hf : s.fault = .none) (hi : s.issuers[j]? = some i) (hq : i.seq = .idle) (hw : i.script = w :: ws) :
    advance j s = present j w (s.setScript j ws) := by
  simp [advance, (State.halted_eq_false s).2 hf, hi, hq, hw]

theorem present_of_decode_ok {w : CommandWord} {i : Instr} (j : Nat) (s : State) (h : decode w = .ok i) :
    present j w s = exec i (s.setActive j) := by
  simp [present, h]

/-- The state in which issuer `j` issues the first word of its script: its turn and that word taken, the issuer
named. -/
def State.takeWord (j : Nat) (ws : List CommandWord) (rest : List Turn) (s : State) : State :=
  ((s.setSchedule rest).setScript j ws).setActive j

/-- A scheduled turn of an `Idle` issuer issues the command its next word decodes to (R16). -/
theorem step_of_decode_ok {s : State} {j : Nat} {rest : List Turn} {iss : Issuer} {w : CommandWord}
    {ws : List CommandWord} {i : Instr} (hs : s.schedule = .issuer j :: rest) (hf : s.fault = .none)
    (hi : s.issuers[j]? = some iss) (hq : iss.seq = .idle) (hw : iss.script = w :: ws) (hd : decode w = .ok i) :
    step s = exec i (s.takeWord j ws rest) := by
  rw [step_of_turn s j rest hs, advance_of_idle (s := s.setSchedule rest) hf hi hq hw, present_of_decode_ok j _ hd]
  rfl

/-- Settles O11: the state of `State.takeWord` written out. -/
theorem stepRunsTheDecodedCommand : Obligations.StepRunsTheDecodedCommand := by
  unfold Obligations.StepRunsTheDecodedCommand
  intro s j rest iss w ws i hs hf hi hq hw hd
  exact step_of_decode_ok hs hf hi hq hw hd

/-- A 64-bit word's number is that word's (R55). -/
theorem tableWord_toNat (w : CommandWord) : tableWord 64 w.toNat = w := by
  rw [tableWord, Nat.mod_eq_of_lt w.isLt, BitVec.ofNat_toNat, BitVec.setWidth_eq]

/-- Settles O12: the placed word is the first issuer's next one, and its turn the next. -/
theorem placedWordIsIssuedNext : Obligations.PlacedWordIsIssuedNext := by
  unfold Obligations.PlacedWordIsIssuedNext
  intro s w i hf hne hd
  obtain ⟨iss, others, hiss⟩ := List.exists_cons_of_ne_nil hne
  have hplaced : (s.withFetchWord 64 w.toNat).issuers =
      { iss with seq := .idle, script := w :: iss.script } :: others := by
    simp [State.withFetchWord, hiss, tableWord_toNat]
  have htaken : ((s.withFetchWord 64 w.toNat).issuers.modify 0 fun x => { x with script := iss.script }) =
      s.issuers.modify 0 fun x => { x with seq := .idle } := by
    simp [hplaced, hiss]
  rw [step_of_decode_ok (s := s.withFetchWord 64 w.toNat) rfl hf (by rw [hplaced]; rfl) rfl rfl hd, State.takeWord,
    State.setScript, State.setSchedule_issuers, htaken]
  rfl

/-- Settles O14: `Step` on its own turn, the cursor after it being `Idle` exactly at the last index. -/
theorem stepExecutesOneMicroOperation : Obligations.StepExecutesOneMicroOperation := by
  unfold Obligations.StepExecutesOneMicroOperation
  intro s t j k rest c u hs hf hq hu hx
  have hx' : execMicroOp u (s.setSchedule rest) = .next t := hx
  have hlt : k < (microOpsOf c).length := (List.getElem?_eq_some_iff.1 hu).1
  have hafter : Cursor.after c k = if k + 1 = (microOpsOf c).length then .idle else .run c (k + 1) := by
    split
    · next hlast => exact Cursor.after_of_last hlast
    · exact Cursor.after_of_lt (by omega)
  rw [step_run hs hf hq hu, hx', andThen_next, hafter]
  rfl

/-- Settles O17: each of the three commands passes the gate of `Issue`, which turns a busy issuer away. -/
theorem busyIssuerCannotIssue : Obligations.BusyIssuerCannotIssue := by
  unfold Obligations.BusyIssuerCannotIssue
  intro s i c k hf hq hw
  cases i with
  | initialise | writeDigit | digits =>
    simp [exec, execInitialise, execWriteDigit, execDigits, issue_of_busy s _ c k hf hq]
  | shiftOut | pulse => cases hw

/-- Settles O21: the laws of `Gpio.configure` for `State.cfgLine`. -/
theorem configureMakesAnOutput : Obligations.ConfigureMakesAnOutput := by
  unfold Obligations.ConfigureMakesAnOutput
  intro s r p hp
  exact ⟨s.cfgLine p, execMicroOp_cfg hp, Gpio.line_configure_self s.gpio p,
    fun q hq => Gpio.line_configure_other s.gpio p q hq, rfl, s.cfgLine_sameRegisters p, rfl, rfl, rfl⟩

/-- A drive puts the bit on an output and leaves an unconfigured line at X (R19, U5). -/
theorem Line.driven_eq (l : Line) (b : Bool) :
    l.driven b = if l.mode = .output then ⟨.output, if b then .high else .low⟩ else ⟨.unconfigured, .x⟩ := by
  obtain ⟨mode, level⟩ := l
  cases mode <;> simp [Line.driven, Level.ofBool]

/-- Settles O22: the laws of `Gpio.drive` for `State.drvLine`. -/
theorem driveSetsTheLineAndIsTraced : Obligations.DriveSetsTheLineAndIsTraced := by
  unfold Obligations.DriveSetsTheLineAndIsTraced
  intro s r p b hwf hp
  exact ⟨s.drvLine p b, execMicroOp_drv b hp,
    (Gpio.line_drive_self_of_wf s.gpio p b hwf).trans (Line.driven_eq _ b),
    fun q hq => Gpio.line_drive_other s.gpio p q b hq, rfl, s.drvLine_sameRegisters p b, rfl, rfl⟩

/-- Settles O23: `execMicroOp_wait`, with the update written out. -/
theorem waitOnlyRecordsTheDelay : Obligations.WaitOnlyRecordsTheDelay := by
  unfold Obligations.WaitOnlyRecordsTheDelay
  exact execMicroOp_wait

theorem execMicroOp_cfg_refused {s : State} {r : Role} (h : s.pinReg r = .x) :
    execMicroOp (.cfg r) s = .refused .pinRegisterX := by
  simp [execMicroOp, withPin, h]

theorem execMicroOp_drv_refused {s : State} {r : Role} (b : Bool) (h : s.pinReg r = .x) :
    execMicroOp (.drv r b) s = .refused .pinRegisterX := by
  simp [execMicroOp, withPin, h]

theorem execMicroOps_pulse_refused {s : State} {r : Role} (us : List MicroOp) (h : s.pinReg r = .x) :
    execMicroOps (pulseOps r ++ us) s = .refused .pinRegisterX := by
  simp [pulseOps, execMicroOp_drv_refused true h]

/-- A bit cell is refused at its data drive, or else at its clock drive (R54). -/
theorem execMicroOps_cell_refused {s : State} (b : Bool) (us : List MicroOp)
    (h : s.pinData = .x ∨ s.pinClock = .x) : execMicroOps (cellOps b ++ us) s = .refused .pinRegisterX := by
  rw [cellOps, List.cons_append, execMicroOps_cons]
  cases hd : s.pinData with
  | x => rw [execMicroOp_drv_refused (r := .data) b hd, andThen_refused]
  | pin p =>
    rw [execMicroOp_drv (r := .data) b hd, andThen_next]
    exact execMicroOps_pulse_refused us (h.resolve_left (by simp [hd]))

/-- Settles O24: the routines are refused at the first drive through the unassigned role. -/
theorem driveOfAnUnassignedPinIsRefused : Obligations.DriveOfAnUnassignedPinIsRefused := by
  unfold Obligations.DriveOfAnUnassignedPinIsRefused
  intro s r b hx
  refine ⟨execMicroOp_cfg_refused hx, execMicroOp_drv_refused b hx, ?_, ?_⟩
  · rintro hf l rfl
    exact (execRoutine_of_not_halted _ hf).trans (execMicroOps_pulse_refused [] hx)
  · intro hf hr byte
    have hxs : s.pinData = .x ∨ s.pinClock = .x := by
      rcases hr with rfl | rfl
      · exact .inl hx
      · exact .inr hx
    exact (execRoutine_of_not_halted _ hf).trans (execMicroOps_cell_refused _ _ hxs)

/-- Settles O26: `exec_initialise_accepted`, with the update written out. -/
theorem initialiseIssueLatchesItsOperands : Obligations.InitialiseIssueLatchesItsOperands := by
  unfold Obligations.InitialiseIssueLatchesItsOperands
  intro s d c l dv us h
  exact exec_initialise_accepted d c l dv us h

/-- Settles O29: `exec_writeDigit_accepted`, with the update and the frame written out. -/
theorem writeDigitIssueLatchesItsFrame : Obligations.WriteDigitIssueLatchesItsFrame := by
  unfold Obligations.WriteDigitIssueLatchesItsFrame
  intro s p pat h hinit hp
  exact exec_writeDigit_accepted pat h hinit hp

end Sys2Proof.Machine

/-! PROOFS. A complete WRITEDIGIT (spec/42_display_driver.md R87): the lines it leaves (spec/10_state.md R21), the chain it
loads (spec/20_memory.md R35, R39), and the outputs before its latch pulse (R38, R44). -/

namespace Sys2Proof.Machine

/-- The bits of a frame in wire order, bit 15 first (R51). -/
theorem frameBitsMsbFirst_eq (f : Frame) :
    frameBitsMsbFirst f = (List.range 16).map fun j => f.getLsbD (15 - j) := by
  simp [frameBitsMsbFirst, byteBitsMsbFirst_eq, addrByte, patternByte, Config.byteBits, List.range_succ]

/-- The last bit sent is the pattern's bit 0 (R21). -/
theorem frameBitsMsbFirst_frameOf (p pat : Byte) :
    ∃ bs, frameBitsMsbFirst (frameOf p pat) = bs ++ [pat.getLsbD 0] := by
  refine ⟨(List.range 15).map fun j => (frameOf p pat).getLsbD (15 - j), ?_⟩
  rw [frameBitsMsbFirst_eq, List.range_succ, List.map_append]
  simp [frameOf_getLsbD]

/-- Settles O33: the cells leave the clock low and the data line at the last bit, the pulse the latch low. -/
theorem writeDigitLeavesClockAndLatchLow : Obligations.WriteDigitLeavesClockAndLatchLow := by
  unfold Obligations.WriteDigitLeavesClockAndLatchLow
  intro s rest p pat d c l hi hinit hp hpins hdc hdl hcl hd hc hl ht
  refine ⟨_, _, exec_writeDigit_accepted pat hi hinit hp, run_writeDigit _ rest hi hpins ht, ?_⟩
  obtain ⟨bs, hbs⟩ := frameBitsMsbFirst_frameOf p pat
  obtain ⟨hclock, hdata⟩ := s.cellsOn_lines d c bs (pat.getLsbD 0) hdc hd hc
  rw [State.setSchedule_gpio, State.writeOn, hbs, State.pulseOn_line_other _ l c hcl, State.pulseOn_line_other _ l d hdl]
  exact ⟨hclock, State.pulseOn_line_self _ l ((s.cellsOn_busFrame d c _).mode l hl), hdata⟩

-- The outputs before the latch pulse.

/-- A drive of another pin than the wired latch pin leaves the outputs (R34). -/
theorem State.drvLine_out (s : State) {p : PinId} (b : Bool) (h : p ≠ s.params.wires.latch) :
    (s.drvLine p b).chain.out = s.chain.out := by
  by_contra hne
  exact h (Chain.react_out _ _ _ _ _ _ hne).1

/-- The data and clock roles are assigned, to no pin the outputs are latched by. -/
structure State.OffLatch (s : State) (d c : PinId) : Prop where
  pinData : s.pinData = .pin d
  pinClock : s.pinClock = .pin c
  data_ne : d ≠ s.params.wires.latch
  clock_ne : c ≠ s.params.wires.latch

theorem State.OffLatch.of_sameRegisters {s t : State} {d c : PinId} (h : s.OffLatch d c) (hr : s.SameRegisters t) :
    t.OffLatch d c :=
  ⟨hr.pinData.trans h.pinData, hr.pinClock.trans h.pinClock, hr.params ▸ h.data_ne, hr.params ▸ h.clock_ne⟩

/-- A micro-operation of a bit cell drives the data or the clock role, or waits, so it leaves the outputs. -/
theorem execMicroOp_cell_out {s : State} {d c : PinId} {b : Bool} {u : MicroOp} (h : s.OffLatch d c)
    (hu : u ∈ cellOps b) :
    ∃ t, execMicroOp u s = .next t ∧ s.SameRegisters t ∧ t.chain.out = s.chain.out := by
  have hclock : ∀ b, execMicroOp (.drv .clock b) s = .next (s.drvLine c b) := fun b => execMicroOp_drv b h.pinClock
  simp only [cellOps, pulseOps, List.mem_cons, List.not_mem_nil, or_false] at hu
  rcases hu with rfl | rfl | rfl | rfl
  · exact ⟨_, execMicroOp_drv b h.pinData, s.drvLine_sameRegisters d b, s.drvLine_out b h.data_ne⟩
  · exact ⟨_, hclock true, s.drvLine_sameRegisters c true, s.drvLine_out true h.clock_ne⟩
  · exact ⟨_, execMicroOp_wait s, s.log_sameRegisters _, rfl⟩
  · exact ⟨_, hclock false, s.drvLine_sameRegisters c false, s.drvLine_out false h.clock_ne⟩

theorem execMicroOps_cells_out {s : State} {d c : PinId} {us : List MicroOp} (h : s.OffLatch d c)
    (hus : ∀ u ∈ us, ∃ b, u ∈ cellOps b) : ∃ t, execMicroOps us s = .next t ∧ t.chain.out = s.chain.out := by
  induction us generalizing s with
  | nil => exact ⟨s, rfl, rfl⟩
  | cons u us ih =>
    obtain ⟨b, hu⟩ := hus u List.mem_cons_self
    obtain ⟨m, hm, hr, hout⟩ := execMicroOp_cell_out h hu
    obtain ⟨t, ht, hout'⟩ := ih (h.of_sameRegisters hr) fun v hv => hus v (List.mem_cons_of_mem u hv)
    exact ⟨t, by rw [execMicroOps_cons, hm, andThen_next, ht], hout'.trans hout⟩

/-- WRITEDIGIT's first 64 micro-operations are those of its bit cells (R87). -/
theorem mem_cellOps_of_mem_take {f : Frame} {n : Nat} (hn : n ≤ 64) {u : MicroOp}
    (hu : u ∈ (microOpsOf (.writeDigit f)).take n) : ∃ b, u ∈ cellOps b := by
  have hlen : (cellsOps (frameBitsMsbFirst f)).length = 64 := by simp [cellsOps_length, frameBitsMsbFirst]
  rw [microOpsOf, writeDigitOps_eq, List.take_append_of_le_length (by omega)] at hu
  obtain ⟨b, -, hb⟩ := List.mem_flatMap.1 (List.mem_of_mem_take hu)
  exact ⟨b, hb⟩

/-- Settles O35: the first `n` micro-operations are cell operations, and those leave the outputs. -/
theorem nothingIsVisibleBeforeTheLatchPulse : Obligations.NothingIsVisibleBeforeTheLatchPulse := by
  unfold Obligations.NothingIsVisibleBeforeTheLatchPulse
  intro s rest p pat d c l n hi hinit hp hpins hd hc hn ht
  have hoff : (s.setSeq s.active (.run (.writeDigit (frameOf p pat)) 0)).OffLatch d c := ⟨hpins.1, hpins.2.1, hd, hc⟩
  obtain ⟨t, hx, hout⟩ := execMicroOps_cells_out hoff fun u hu => mem_cellOps_of_mem_take (f := frameOf p pat) hn hu
  have hturns : s.turnsOf s.active n (List.replicate (67 - n) (.issuer s.active) ++ rest) := by
    rw [State.turnsOf, ← List.append_assoc, List.replicate_append_replicate, show n + (67 - n) = 67 by omega]
    exact ht
  refine ⟨_, _, exec_writeDigit_accepted pat hi hinit hp,
    run_microOps n _ t 0 _ hi.1 (s.seqAt_setSeq_self _ _ _ hi.2) hturns ?_ hx, hout⟩
  rw [writeDigitOps_length]
  omega

-- The chain a complete write loads.

theorem Cells.shiftIn_toList (b : Level) (v : Cells) : (v.shiftIn b).toList = (b :: v.toList).take 16 := by
  simp [Cells.shiftIn]

/-- Bits shifted in stand newest first above what was there, the sixteen newest kept (R34). -/
theorem Cells.foldl_shiftIn_toList (bs : List Bool) (v : Cells) :
    (bs.foldl (fun v b => v.shiftIn (Level.ofBool b)) v).toList =
      ((bs.map Level.ofBool).reverse ++ v.toList).take 16 := by
  induction bs generalizing v with
  | nil => simp
  | cons b bs ih =>
    rw [List.foldl_cons, ih, Cells.shiftIn_toList, List.take_append, List.take_take, Nat.min_eq_left (by omega),
      ← List.take_append]
    simp

/-- A frame's sixteen bits, shifted in, are the frame, whatever was there (R35). -/
theorem Cells.foldl_shiftIn_frame (f : Frame) (v : Cells) :
    (frameBitsMsbFirst f).foldl (fun v b => v.shiftIn (Level.ofBool b)) v = Cells.ofFrame f := by
  apply Cells.ext
  intro i hi
  have hget : ((frameBitsMsbFirst f).foldl (fun v b => v.shiftIn (Level.ofBool b)) v).toList[i]? =
      some (Level.ofBool (f.getLsbD i)) := by
    rw [Cells.foldl_shiftIn_toList, frameBitsMsbFirst_eq]
    simp [hi, show 15 - (15 - i) = i by omega]
  rw [Cells.ofFrame_get f i hi, ← Option.some_inj, ← hget]
  simp [hi]

/-- A latch pulse of a ready chain copies the shift stage to the outputs and leaves the chain ready (R34, R44). -/
theorem State.pulseOn_latch_ready {s : State} (h : s.chainReady) :
    (s.pulseOn s.params.wires.latch).chainReady ∧
      (s.pulseOn s.params.wires.latch).chain = ⟨s.chain.sr, s.chain.sr⟩ := by
  obtain ⟨⟨hwd, hwc, hwl⟩, hdist, hc, hl, hd⟩ := h
  have hne := hdist
  simp only [Wires.distinct, Bool.and_eq_true, bne_iff_ne, ne_eq] at hne
  obtain ⟨⟨-, hdl⟩, hcl⟩ := hne
  have hlm : (s.gpio.line s.params.wires.latch).mode = .output := by rw [hl]
  have hf := s.pulseOn_busFrame s.params.wires.latch
  have hp := hf.regs.params
  refine ⟨⟨⟨?_, ?_, ?_⟩, ?_, ?_, ?_, ?_⟩, ?_⟩
  · rw [hf.regs.pinData, hp, hwd]
  · rw [hf.regs.pinClock, hp, hwc]
  · rw [hf.regs.pinLatch, hp, hwl]
  · rw [hp, hdist]
  · rw [State.lineLow, hp, State.pulseOn_line_other s _ _ hcl, hc]
  · rw [State.lineLow, hp, State.pulseOn_line_self s _ hlm]
  · rw [hp]; exact hf.mode _ hd
  · rw [State.pulseOn_chain s _ hlm (Ne.symm hdl), Chain.react_latch _ _ _ _ _ hcl, hl]
    rfl

/-- WRITEDIGIT with the roles as wired loads its frame into `SR` and `OUT`, and the chain is ready for the next
(R35). -/
theorem State.writeOn_wired {s : State} (f : Frame) (h : s.chainReady) :
    let w := s.params.wires
    (s.writeOn w.data w.clock w.latch f).chainReady ∧
      (s.writeOn w.data w.clock w.latch f).chain = ⟨Cells.ofFrame f, Cells.ofFrame f⟩ := by
  intro w
  obtain ⟨hready, hchain⟩ := s.cellsOn_wired (frameBitsMsbFirst f) h
  have hp : (s.cellsOn w.data w.clock (frameBitsMsbFirst f)).params = s.params := (s.cellsOn_busFrame _ _ _).regs.params
  obtain ⟨hready', hchain'⟩ := State.pulseOn_latch_ready hready
  rw [hp] at hready' hchain'
  refine ⟨hready', hchain'.trans ?_⟩
  rw [hchain, Cells.foldl_shiftIn_frame]

-- A WRITEDIGIT word, from its issue to its last micro-operation.

/-- What is left behind when issuer `j`'s WRITEDIGIT word of frame `f` was issued and run: the word and the turns taken,
its events appended, the chain loaded if it was ready, and the rest as it was (R22, R35, R87). -/
structure State.WordWritten (s t : State) (j : Nat) (ws : List CommandWord) (rest : List Turn) (d c l : PinId)
    (f : Frame) : Prop where
  trace : t.trace = s.trace ++
    ((frameBitsMsbFirst f).flatMap (cellEvents d c s.pulseDelay) ++ pulseEvents l s.pulseDelay)
  chain : s.chainReady → t.chainReady ∧ t.chain = ⟨Cells.ofFrame f, Cells.ofFrame f⟩
  issuers : t.issuers = s.issuers.modify j fun i => { i with script := ws }
  schedule : t.schedule = rest
  fault : t.fault = s.fault
  setting : s.SameSetting t

theorem State.takeWord_canIssue {s : State} {j : Nat} {iss : Issuer} (ws : List CommandWord) (rest : List Turn)
    (hf : s.fault = .none) (hi : s.issuers[j]? = some iss) (hq : iss.seq = .idle) : (s.takeWord j ws rest).canIssue := by
  refine ⟨hf, ((s.setSchedule rest).seqAt_setScript j j ws).trans ?_⟩
  rw [← hq]
  exact State.seqAt_of_getElem? hi

/-- With the roles as wired, the pins the registers hold are the wired ones (R121). -/
theorem State.wired_unique {s : State} {d c l : PinId} (hw : s.wired) (h : s.hasPins d c l) :
    d = s.params.wires.data ∧ c = s.params.wires.clock ∧ l = s.params.wires.latch := by
  obtain ⟨hd, hc, hl⟩ := h
  simpa [State.wired, State.hasPins, hd, hc, hl] using hw

theorem State.WordWritten.of_writeOn {s : State} {j : Nat} {ws : List CommandWord} {rest rest' : List Turn}
    {d c l : PinId} (f : Frame) (hpins : s.hasPins d c l) :
    s.WordWritten (((s.takeWord j ws rest').writeOn d c l f).setSchedule rest) j ws rest d c l f := by
  have hframe := (s.takeWord j ws rest').writeOn_busFrame d c l f
  have htrace := (s.takeWord j ws rest').writeOn_trace d c l f
  have hchain : s.chainReady → ((s.takeWord j ws rest').writeOn d c l f).chainReady ∧
      ((s.takeWord j ws rest').writeOn d c l f).chain = ⟨Cells.ofFrame f, Cells.ofFrame f⟩ := by
    intro h
    obtain ⟨rfl, rfl, rfl⟩ := State.wired_unique h.1 hpins
    exact State.writeOn_wired (s := s.takeWord j ws rest') f h
  generalize (s.takeWord j ws rest').writeOn d c l f = t at hframe htrace hchain
  obtain ⟨hinit, hdata, hclock, hlatch, hdelay⟩ := hframe.regs.sameSetting
  exact ⟨htrace, hchain, hframe.issuers, rfl, hframe.regs.fault, ⟨hinit, hdata, hclock, hlatch, hdelay⟩⟩

theorem run_writeDigit_word {s : State} {rest : List Turn} {iss : Issuer} {j : Nat} {w : CommandWord}
    {ws : List CommandWord} {p pat : Byte} {d c l : PinId} (hf : s.fault = .none) (hi : s.issuers[j]? = some iss)
    (hq : iss.seq = .idle) (hw : iss.script = w :: ws) (hd : decode w = .ok (.writeDigit p pat))
    (hinit : s.init = true) (hp : p.toNat < 8) (hpins : s.hasPins d c l) (ht : s.turnsOf j 68 rest) :
    ∃ t, run 68 s = .next t ∧ s.WordWritten t j ws rest d c l (frameOf p pat) := by
  have ha := State.takeWord_canIssue ws (List.replicate 67 (.issuer j) ++ rest) hf hi hq
  have hstep := (step_of_decode_ok ht hf hi hq hw hd).trans (exec_writeDigit_accepted pat ha hinit hp)
  exact ⟨_, (run_succ_of_step 67 hstep).trans (run_writeDigit (frameOf p pat) rest ha hpins rfl),
    State.WordWritten.of_writeOn _ hpins⟩

/-- Settles O38: each of the two words is written alike (`run_writeDigit_word`), and each loads the same frame. -/
theorem repeatedWriteRepeatsItsEvents : Obligations.RepeatedWriteRepeatsItsEvents := by
  unfold Obligations.RepeatedWriteRepeatsItsEvents
  intro s rest iss j w ws p pat hf hi hq hw hd hinit hp hassigned ht
  obtain ⟨d, c, l, hpins⟩ := State.hasPins_of_pinsAssigned hassigned
  have ht68 : s.turnsOf j 68 (List.replicate 68 (.issuer j) ++ rest) := by
    rw [State.turnsOf, ← List.append_assoc, List.replicate_append_replicate]
    exact ht
  obtain ⟨t, hrun, h⟩ := run_writeDigit_word hf hi hq hw hd hinit hp hpins ht68
  have hpins' : t.hasPins d c l := ⟨h.setting.pinData.trans hpins.1, h.setting.pinClock.trans hpins.2.1,
    h.setting.pinLatch.trans hpins.2.2⟩
  have hi' : t.issuers[j]? = some { iss with script := w :: ws } := by simp [h.issuers, hi]
  obtain ⟨t', hrun', h'⟩ := run_writeDigit_word (h.fault.trans hf) hi' hq rfl hd (h.setting.init.trans hinit) hp hpins'
    h.schedule
  refine ⟨t, t', _, hrun, hrun', ?_, h.trace, ?_, fun hready => ?_⟩
  · simp [frameBitsMsbFirst_eq, cellEvents, pulseEvents, Function.comp_def]
  · rw [h'.trace, h.setting.pulseDelay]
  · obtain ⟨hready', hchain⟩ := h.chain hready
    rw [(h'.chain hready').2, hchain]

end Sys2Proof.Machine

/-! PROOFS. The block is blind to its environment: nothing it does depends on the lines or on the downstream chain
(spec/20_memory.md R31). -/

namespace Sys2Proof.Machine

/-- Other lines and another chain. -/
def State.withLines (g : Gpio) (c : Chain) (s : State) : State := { s with gpio := g, chain := c }

@[simp] theorem State.withLines_pinReg (g : Gpio) (c : Chain) (s : State) (r : Role) :
    (s.withLines g c).pinReg r = s.pinReg r := by
  cases r <;> rfl

section
variable (g : Gpio) (c : Chain) (s : State)

@[simp] theorem State.withLines_issuers : (s.withLines g c).issuers = s.issuers := rfl
@[simp] theorem State.withLines_params : (s.withLines g c).params = s.params := rfl
@[simp] theorem State.withLines_schedule : (s.withLines g c).schedule = s.schedule := rfl
@[simp] theorem State.withLines_active : (s.withLines g c).active = s.active := rfl
@[simp] theorem State.withLines_fresh : (s.withLines g c).fresh = s.fresh := rfl

end

/-- The same outcome, a next state differing in nothing but the lines and the chain. -/
inductive SameButLines : Result → Result → Prop
  | next (t : State) (g : Gpio) (c : Chain) : SameButLines (.next t) (.next (t.withLines g c))
  | fault (e : Fault) : SameButLines (.fault e) (.fault e)
  | refused (e : Refusal) : SameButLines (.refused e) (.refused e)

/-- `f` reads neither the lines nor the chain back. -/
def Blind (f : State → Result) : Prop := ∀ s g c, SameButLines (f s) (f (s.withLines g c))

/-- An update that puts anything on the lines and the chain, as long as it reads them for nothing else, is blind. -/
theorem Blind.of_update {f : State → State} (h : ∀ s g c, ∃ g' c', f (s.withLines g c) = (f s).withLines g' c') :
    Blind fun s => .next (f s) := by
  intro s g c
  obtain ⟨g', c', h⟩ := h s g c
  simp only [h]
  exact .next (f s) g' c'

theorem Blind.andThen {f f' : State → Result} (hf : Blind f) (hf' : Blind f') : Blind fun s => andThen (f s) f' := by
  intro s g c
  have h := hf s g c
  revert h
  change _ → SameButLines (Machine.andThen (f s) f') (Machine.andThen (f (s.withLines g c)) f')
  generalize f s = r, f (s.withLines g c) = r'
  rintro (⟨t, g', c'⟩ | e | e)
  · exact hf' t g' c'
  · exact .fault e
  · exact .refused e

theorem Blind.ite {p : State → Prop} [∀ s, Decidable (p s)] {f f' : State → Result}
    (hp : ∀ s g c, p (s.withLines g c) ↔ p s) (hf : Blind f) (hf' : Blind f') :
    Blind fun s => if p s then f s else f' s := by
  intro s g c
  simp only [hp]
  split
  · exact hf s g c
  · exact hf' s g c

/-- What is done unless the block is halted (R108). -/
theorem Blind.unless_halted {f : State → Result} (hf : Blind f) :
    Blind fun s => if s.halted then .fault (.halted s.fault) else f s :=
  .ite (fun _ _ _ => Iff.rfl) (fun _ _ _ => .fault _) hf

theorem Blind.withPin {act : State → PinId → State} (hact : ∀ p, Blind fun s => .next (act s p)) (r : Role) :
    Blind fun s => withPin r s (act s) := by
  intro s g c
  simp only [Machine.withPin, State.withLines_pinReg]
  cases s.pinReg r with
  | x => exact .refused _
  | pin p => exact hact p s g c

/-- CFG and DRV read a line and the chain only to write the lines and the chain (R19, R34). -/
theorem execMicroOp_blind (u : MicroOp) : Blind (execMicroOp u) := by
  cases u with
  | assignPins d c l => exact .of_update fun s g c => ⟨g, c, rfl⟩
  | cfg r => exact .withPin (act := fun s p => s.cfgLine p) (fun p => .of_update fun s g c => ⟨_, _, rfl⟩) r
  | drv r b => exact .withPin (act := fun s p => s.drvLine p b) (fun p => .of_update fun s g c => ⟨_, _, rfl⟩) r
  | wait => exact .of_update fun s g c => ⟨g, c, rfl⟩
  | delay dv us => exact .of_update fun s g c => ⟨g, c, by cases dv <;> rfl⟩
  | setInit => exact .of_update fun s g c => ⟨g, c, rfl⟩

theorem stepMicroOp_blind (j : Nat) (cmd : Command) (k : Nat) : Blind (stepMicroOp j cmd k) := by
  unfold stepMicroOp
  cases (microOpsOf cmd)[k]? with
  | none => exact fun _ _ _ => .refused _
  | some u => exact (execMicroOp_blind u).andThen (.of_update fun s g c => ⟨g, c, rfl⟩)

/-- The gate of `Issue` reads `FAULT`, the presenting issuer and its cursor (R16). -/
theorem Blind.issue {accepted : State → Result} (ha : Blind accepted) : Blind fun s => issue s accepted := by
  refine Blind.unless_halted fun s g c => ?_
  simp only [State.withLines_issuers, State.withLines_active]
  split
  · exact .refused _
  · split
    · exact ha s g c
    · exact .refused _

/-- Issuing a command reads `FAULT`, `INIT`, the presenting issuer, the table and the free values' counter. -/
theorem exec_command_blind {i : Instr} (hw : i.wf = true) : Blind (exec i) := by
  cases i with
  | initialise d c l dv us => exact .issue (.of_update fun s g c => ⟨g, c, rfl⟩)
  | writeDigit p pat =>
    refine .issue (.ite (fun _ _ _ => Iff.rfl) (.of_update fun s g c => ⟨g, c, rfl⟩) ?_)
    exact .ite (fun _ _ _ => Iff.rfl) (.of_update fun s g c => ⟨g, c, rfl⟩) (.of_update fun s g c => ⟨g, c, rfl⟩)
  | digits index =>
    refine .issue fun s g c => ?_
    simp only [State.withLines_params]
    split <;> exact .next _ g c
  | shiftOut | pulse => cases hw

theorem present_blind (j : Nat) (w : CommandWord) : Blind (present j w) := by
  intro s g c
  unfold present
  cases hd : decode w with
  | ok i => exact exec_command_blind (decode_wf hd) (s.setActive j) g c
  | error e => exact .next _ g c

theorem advance_blind (j : Nat) : Blind (advance j) := by
  refine .unless_halted fun s g c => ?_
  simp only [State.withLines_issuers]
  split
  · exact .next s g c
  · split
    · exact stepMicroOp_blind j _ _ s g c
    · exact present_blind j _ (s.setScript j _) g c
    · exact .next s g c

/-- The choice of a transition reads the schedule, the issuers and the free values' counter (R42). -/
theorem step_blind : Blind step := by
  intro s g c
  simp only [step, transition, State.withLines_schedule, State.withLines_issuers, State.withLines_fresh]
  split
  · next ts _ => exact .next (s.setSchedule ts).resetEvent [] _
  · next j ts _ => exact advance_blind j (s.setSchedule ts) g c
  · split
    · exact Blind.unless_halted (f := .next) (fun s g c => .next s g c) s g c
    · exact advance_blind _ s g c
    · exact advance_blind _ s.tick g c

/-- Settles O55: the three ways two outcomes are the same but for the lines and the chain. -/
theorem nothingIsReadBack : Obligations.NothingIsReadBack := by
  unfold Obligations.NothingIsReadBack
  intro s g c
  have hsame : SameButLines (step s) (step (s.withLines g c)) := step_blind s g c
  change (∀ t : State, step s = .next t → ∃ g' c', step (s.withLines g c) = .next (t.withLines g' c')) ∧
    (∀ r, step s = .fault r → step (s.withLines g c) = .fault r) ∧
    (∀ r, step s = .refused r → step (s.withLines g c) = .refused r)
  revert hsame
  generalize step s = r, step (s.withLines g c) = r'
  rintro (⟨t, g', c'⟩ | e | e)
  · exact ⟨by rintro _ ⟨⟩; exact ⟨g', c', rfl⟩, by simp, by simp⟩
  · simp
  · simp

end Sys2Proof.Machine

/-! PROOFS. The choice of a transition with nothing scheduled (spec/20_memory.md R42), and how the downstream chain reacts
to the block's drives (R34, R44). -/

namespace Sys2Proof.Machine

/-- Settles O19: of the three things a step can be (`step_cases`), Reset needs a scheduled turn. -/
theorem unscheduledStepIsSomeReadyIssuers : Obligations.UnscheduledStepIsSomeReadyIssuers := by
  unfold Obligations.UnscheduledStepIsSomeReadyIssuers
  intro s hs hf
  rcases step_cases s with ⟨ts, hts, -⟩ | ⟨-, -, hidle, hstep⟩ | ⟨-, j, s', hturn, hstep, hready⟩
  · rw [hs] at hts
    cases hts
  · exact .inl ⟨hidle, by simp [hstep, (State.halted_eq_false s).2 hf]⟩
  · obtain ⟨i, hi, hr⟩ := hready hs
    refine .inr ⟨j, i, hi, hr, ?_⟩
    rcases hturn with rfl | rfl | ⟨j', ts, hts, -⟩
    · exact .inl hstep
    · exact .inr hstep
    · rw [hs] at hts
      cases hts

theorem Wires.ne_of_distinct {w : Wires} (h : w.distinct = true) :
    w.data ≠ w.clock ∧ w.data ≠ w.latch ∧ w.clock ≠ w.latch := by
  simpa [Wires.distinct, and_assoc] using h

/-- A drive of a line that is high already does nothing (R34). -/
theorem Chain.react_of_high (w : Wires) (p : PinId) (n d : Level) (c : Chain) : c.react w p .high n d = c := by
  simp [Chain.react, Chain.clockEdge, Chain.latchEdge]

/-- Settles O25: the first two clauses say what can change at all, the others go through the edges one by one. -/
theorem chainReactsToRisingEdges : Obligations.ChainReactsToRisingEdges := by
  unfold Obligations.ChainReactsToRisingEdges
  intro s t r p b hdist hp ht
  obtain ⟨-, -, hcl⟩ := Wires.ne_of_distinct hdist
  rw [execMicroOp_drv b hp] at ht
  cases ht
  intro old new
  have hchain : (s.drvLine p b).chain = s.chain.react s.params.wires p old new
      ((s.drvLine p b).gpio.line s.params.wires.data).level := rfl
  clear_value old new
  refine ⟨?_, ?_, ?_, ?_, ?_, ?_, ?_⟩ <;> rw [hchain]
  · exact Chain.react_sr _ _ _ _ _ _
  · exact Chain.react_out _ _ _ _ _ _
  · rintro rfl rfl rfl
    rw [Chain.react_clock _ _ _ _ _ hcl]
    exact ⟨Cells.shiftIn_zero _ _, Cells.shiftIn_succ _ _⟩
  · rintro rfl rfl rfl
    rw [Chain.react_clock _ _ _ _ _ hcl]
    exact Cells.allX_get
  · rintro rfl rfl rfl
    rw [Chain.react_latch _ _ _ _ _ hcl]
    rfl
  · rintro rfl rfl rfl
    rw [Chain.react_latch _ _ _ _ _ hcl]
    exact Cells.allX_get
  · rintro rfl
    exact Chain.react_of_high _ _ _ _ _

/-- Only a drive of `1` puts a line high (R19). -/
theorem Line.driven_eq_high {l : Line} {b : Bool} (h : (l.driven b).level = .high) : b = true := by
  cases b with
  | true => rfl
  | false => rw [Line.driven_eq] at h; split at h <;> cases h

/-- A micro-operation that is no drive leaves the chain (R34). -/
theorem execMicroOp_chain {u : MicroOp} {s t : State} (h : execMicroOp u s = .next t) :
    t.chain = s.chain ∨ ∃ p b, t = s.drvLine p b := by
  rcases execMicroOp_eq_next h with ⟨d, c, l, -, rfl⟩ | ⟨r, p, -, -, rfl⟩ | ⟨r, b, p, -, -, rfl⟩ | ⟨-, rfl⟩ |
    ⟨dv, us, -, rfl⟩ | ⟨-, rfl⟩
  · exact .inl rfl
  · exact .inl rfl
  · exact .inr ⟨p, b, rfl⟩
  · exact .inl rfl
  · exact .inl (State.optionalDelay_chain s dv us)
  · exact .inl rfl

/-- Issuing a command leaves the chain. -/
theorem present_chain {j : Nat} {w : CommandWord} {s t : State} (h : present j w s = .next t) : t.chain = s.chain := by
  rcases present_eq_next h with ⟨e, -, rfl⟩ | ⟨i, -, hw, hi⟩
  · rfl
  · obtain ⟨-, ⟨d, c, l, dv, us, -, rfl⟩ | ⟨p, pat, -, -, rfl⟩ | ⟨p, pat, -, -, -, rfl⟩ | ⟨p, pat, -, -, -, rfl⟩ |
      ⟨x, b, -, -, rfl⟩ | ⟨x, -, -, rfl⟩⟩ := exec_command_eq_next hw hi <;> rfl

/-- A step that changes the chain is a drive (R34). `s'` is `s` but for the turn taken, `t` the driven state but for the
cursors. -/
theorem step_chain {s t : State} (h : step s = .next t) (hr : s.resetNext = false) :
    t.chain = s.chain ∨ ∃ p b, t.chain = (s.drvLine p b).chain ∧ t.trace = (s.drvLine p b).trace := by
  obtain ⟨-, s', hturn, hact⟩ := step_eq_next h hr
  obtain ⟨-, -, -, -, -, -, -, -, hgpio, hchain, htrace, hparams, -⟩ := hturn.frame
  rcases hact with rfl | ⟨j, c, k, -, hm⟩ | ⟨j, i, w, ws, -, -, -, hp⟩
  · exact .inl hchain
  · obtain ⟨u, m, -, hu, rfl⟩ := stepMicroOp_eq_next hm
    rcases execMicroOp_chain hu with hsame | ⟨p, b, rfl⟩
    · exact .inl (hsame.trans hchain)
    · exact .inr ⟨p, b, by simp [hgpio, hchain, hparams], by simp [htrace]⟩
  · exact .inl ((present_chain hp).trans hchain)

/-- Settles O57: a step that changes the chain is a drive, and the chain reacts to no drive that does not end high. -/
theorem outputsChangeOnlyAtALatchRise : Obligations.OutputsChangeOnlyAtALatchRise := by
  unfold Obligations.OutputsChangeOnlyAtALatchRise
  intro s t hwf h hr
  rcases step_chain h hr with hsame | ⟨p, b, hchain, htrace⟩
  · simp [hsame]
  · have high_of_drive : ((s.gpio.drive p b).line p).level = .high → b = true := by
      rw [Gpio.line_drive_self_of_wf s.gpio p b hwf]
      exact Line.driven_eq_high
    rw [hchain, htrace, State.drvLine_chain, State.drvLine_trace]
    refine ⟨fun hne => ?_, fun hne => ?_⟩
    · obtain ⟨rfl, hhigh⟩ := Chain.react_out _ _ _ _ _ _ hne
      rw [high_of_drive hhigh]
    · obtain ⟨rfl, hhigh⟩ := Chain.react_sr _ _ _ _ _ _ hne
      rw [high_of_drive hhigh]

end Sys2Proof.Machine

/-! PROOFS. A complete WRITEDIGIT (spec/42_display_driver.md R87) and what it loads (spec/20_memory.md R35); SHIFTOUT and
PULSE of the latch line with the roles as wired (spec/41_shift_register_bus.md R75, R76). -/

namespace Sys2Proof.Machine

theorem State.writeOn_line_other (s : State) (d c l q : PinId) (f : Frame) (hd : q ≠ d) (hc : q ≠ c) (hl : q ≠ l) :
    (s.writeOn d c l f).gpio.line q = s.gpio.line q := by
  rw [State.writeOn, State.pulseOn_line_other _ l q hl, State.cellsOn_line_other s d c q _ hd hc]

theorem State.setSchedule_sameRegisters (s : State) (ts : List Turn) : s.SameRegisters (s.setSchedule ts) := by
  constructor <;> rfl

/-- Settles O32: the events and the frame of `State.writeOn`, the sixteen bits written out from bit 15 down. -/
theorem writeDigitSendsItsSixtySevenEvents : Obligations.WriteDigitSendsItsSixtySevenEvents := by
  unfold Obligations.WriteDigitSendsItsSixtySevenEvents
  intro s rest p pat d c l hi hinit hp hpins ht
  have hframe := s.writeOn_busFrame d c l (frameOf p pat)
  refine ⟨_, _, exec_writeDigit_accepted pat hi hinit hp, run_writeDigit _ rest hi hpins ht, ?_, ?_, ?_,
    hframe.issuers, rfl⟩
  · rw [State.setSchedule_trace, State.writeOn_trace, frameBitsMsbFirst_eq, List.flatMap_map, List.append_assoc]
    rfl
  · exact hframe.regs.trans (State.setSchedule_sameRegisters _ rest)
  · intro q hd hc hl
    rw [State.setSchedule_gpio, s.writeOn_line_other d c l q _ hd hc hl]

/-- Settles O34: the chain of `State.writeOn_wired`. -/
theorem completeWriteLoadsTheChain : Obligations.CompleteWriteLoadsTheChain := by
  unfold Obligations.CompleteWriteLoadsTheChain
  intro s rest p pat hi hinit hp hready ht
  obtain ⟨-, hchain⟩ := State.writeOn_wired (frameOf p pat) hready
  refine ⟨_, _, exec_writeDigit_accepted pat hi hinit hp, run_writeDigit _ rest hi hready.1 ht, ?_⟩
  rw [State.setSchedule_chain, hchain]
  exact ⟨rfl, Cells.ofFrame_get _⟩

/-- A byte's eight bits, shifted in, stand below the former low eight cells (R34). -/
theorem Cells.foldl_shiftIn_byte (b : Byte) (v : Cells) :
    ((byteBitsMsbFirst b).foldl (fun v b => v.shiftIn (Level.ofBool b)) v).toList =
      (List.range 8).map (fun i => Level.ofBool (b.getLsbD i)) ++ v.toList.take 8 := by
  have hbits : ((byteBitsMsbFirst b).map Level.ofBool).reverse =
      (List.range 8).map fun i => Level.ofBool (b.getLsbD i) := rfl
  rw [Cells.foldl_shiftIn_toList, hbits, List.take_append]
  simp

theorem Cells.getElem?_of_toList_eq {v : Cells} {l : List Level} (h : v.toList = l) (i : Nat) (hi : i < 16) :
    l[i]? = some v[i] := by
  subst h
  simp [hi]

/-- Settles O50: the chain of `State.cellsOn_wired`, read cell by cell. -/
theorem shiftOutShiftsTheByteIn : Obligations.ShiftOutShiftsTheByteIn := by
  unfold Obligations.ShiftOutShiftsTheByteIn
  intro s byte hf hready
  obtain ⟨-, hchain⟩ := s.cellsOn_wired (byteBitsMsbFirst byte) hready
  have hcells := Cells.getElem?_of_toList_eq (Cells.foldl_shiftIn_byte byte s.chain.sr)
  refine ⟨_, exec_shiftOut_of_hasPins byte hf hready.1, by rw [hchain], fun i h => ?_, fun i h => ?_⟩
  · simp only [hchain]
    rw [← Option.some_inj, ← hcells i (by omega)]
    simp [List.getElem?_append, h, Level.ofBool]
  · simp only [hchain]
    rw [← Option.some_inj, ← hcells (i + 8) (by omega)]
    simp [List.getElem?_append, h]

/-- Settles O51: the pulse's one rise, from level 0, copies the shift stage. -/
theorem latchPulseCommits : Obligations.LatchPulseCommits := by
  unfold Obligations.LatchPulseCommits
  intro s hf hdist hpin hlow
  obtain ⟨-, hdl, hcl⟩ := Wires.ne_of_distinct hdist
  have hchain : (s.pulseOn s.params.wires.latch).chain = ⟨s.chain.sr, s.chain.sr⟩ := by
    rw [State.pulseOn_chain s _ (by rw [hlow]) hdl.symm, Chain.react_latch _ _ _ _ _ hcl, hlow]
    rfl
  exact ⟨_, exec_pulse_of_pinReg .latch hf hpin, by rw [hchain], by rw [hchain]⟩

end Sys2Proof.Machine

/-! PROOFS. The panel's reading of a written frame (spec/20_memory.md R36). -/

namespace Sys2Proof.Machine

/-- The address byte of a position in contract has bit `p` alone set (R52). -/
theorem oneHot_getLsbD {p : Byte} (hp : p.toNat < 8) (k : Nat) : (oneHot p).getLsbD k = decide (k = p.toNat) := by
  have htwoPow : oneHot p = BitVec.twoPow 8 p.toNat := rfl
  rw [htwoPow, BitVec.getLsbD_twoPow]
  simp [hp, eq_comm]

theorem panelSelect_frameOf {p : Byte} (pat : Byte) (q : Fin 8) (hp : p.toNat < 8) :
    panelSelect (Cells.ofFrame (frameOf p pat)) q = Level.ofBool (decide (q.val = p.toNat)) := by
  rw [panelSelect_ofFrame, frameOf_getLsbD, if_neg (by omega), Nat.add_sub_cancel_left, oneHot_getLsbD hp]

theorem segmentLine_frameOf (p pat : Byte) (s : Fin 8) :
    segmentLine (Cells.ofFrame (frameOf p pat)) s = Level.ofBool (pat.getLsbD s.val) := by
  rw [segmentLine_ofFrame, frameOf_getLsbD, if_pos s.isLt]

theorem Level.ofBool_beq_high (b : Bool) : (Level.ofBool b == .high) = b := by cases b <;> rfl

theorem Level.ofBool_beq_low (b : Bool) : (Level.ofBool b == .low) = !b := by cases b <;> rfl

/-- Segment `s` of panel `q` with a written frame in the outputs (R36, R53). -/
theorem segmentLit_frameOf {p : Byte} (pat : Byte) (q s : Fin 8) (hp : p.toNat < 8) :
    segmentLit (Cells.ofFrame (frameOf p pat)) q s = (decide (q.val = p.toNat) && patternLights pat s) := by
  rw [segmentLit, panelSelect_frameOf pat q hp, segmentLine_frameOf, Level.ofBool_beq_high, Level.ofBool_beq_low,
    patternLights]

/-- Settles O40: the select lines spell the position (`panelSelect_frameOf`), the segment lines the pattern. -/
theorem onlyTheWrittenPanelIsLit : Obligations.OnlyTheWrittenPanelIsLit := by
  unfold Obligations.OnlyTheWrittenPanelIsLit
  intro p pat q s hp
  refine ⟨segmentLit_frameOf pat q s hp, ?_⟩
  rw [panelDark, panelSelect_frameOf pat q hp, Level.ofBool_beq_low]

theorem patternLights_and (a b : Byte) (s : Fin 8) :
    patternLights (a &&& b) s = (patternLights a s || patternLights b s) := by
  simp [patternLights]

/-- Settles O41: bits are active low, so AND of patterns is OR of segments, and the select line is the same for all
three frames. -/
theorem andOfPatternsLightsTheUnion : Obligations.AndOfPatternsLightsTheUnion := by
  unfold Obligations.AndOfPatternsLightsTheUnion
  intro p a b q s hp
  refine ⟨?_, fun hq => ⟨?_, rfl⟩⟩
  · simp only [segmentLit_frameOf _ q s hp, patternLights_and, Bool.and_or_distrib_left]
  · simp [segmentLit_frameOf a q s hp, hq]

end Sys2Proof.Machine

/-! PROOFS. Two WRITEDIGITs whose micro-operations interleave (spec/20_memory.md R42, R46): one is cut after its first bit
cell by the other. -/

namespace Sys2Proof.Machine

theorem State.seqAt_setSeq_of_issuers {s t : State} (h : t.issuers = s.issuers) (j : Nat) (c : Cursor) {d : Cursor}
    (hq : s.seqAt j = some d) :
    (t.setSeq j c).seqAt j = some c ∧ ∀ i, i ≠ j → (t.setSeq j c).seqAt i = s.seqAt i := by
  have hseq : ∀ i, t.seqAt i = s.seqAt i := fun i => by rw [State.seqAt, h, State.seqAt]
  exact ⟨t.seqAt_setSeq_self j c d ((hseq j).trans hq), fun i hi => (t.seqAt_setSeq_other j i c hi).trans (hseq i)⟩

/-- A block of turns of one issuer, whose micro-operations leave the chain ready: the next block starts as it did. -/
theorem run_block {c : Command} {j k n : Nat} {s t : State} {rest : List Turn} (hf : s.fault = .none)
    (hq : s.seqAt j = some (.run c k)) (ht : s.turnsOf j n rest) (hk : k + n ≤ (microOpsOf c).length)
    (hx : execMicroOps (((microOpsOf c).drop k).take n) s = .next t) (hready : t.chainReady) :
    ∃ u, run n s = .next u ∧ u.fault = .none ∧ u.chainReady ∧ u.chain = t.chain ∧ u.schedule = rest ∧
      u.seqAt j = some (Cursor.afterMany c k n) ∧ ∀ i, i ≠ j → u.seqAt i = s.seqAt i := by
  obtain ⟨hissuers, -, -, -, -, hfault, -⟩ := execMicroOps_frame hx
  exact ⟨_, run_microOps n s t k rest hf hq ht hk hx, hfault.trans hf, hready, rfl, rfl,
    State.seqAt_setSeq_of_issuers (t := t.setSchedule rest) hissuers j _ hq⟩

/-- Bit cells and the latch pulse with the roles as wired: the bits are shifted in and committed, and the chain is ready
for the next (R34). -/
theorem execMicroOps_cells_latch {s : State} (bs : List Bool) (h : s.chainReady) :
    ∃ t, execMicroOps (cellsOps bs ++ pulseOps .latch) s = .next t ∧ t.chainReady ∧
      t.chain.out = bs.foldl (fun v b => v.shiftIn (Level.ofBool b)) s.chain.sr := by
  obtain ⟨hshifted, hchain⟩ := s.cellsOn_wired bs h
  obtain ⟨hcommitted, hchain'⟩ := State.pulseOn_latch_ready hshifted
  refine ⟨_, ?_, hcommitted, by rw [hchain', hchain]⟩
  rw [execMicroOps_append, execMicroOps_cells bs h.1.1 h.1.2.1, andThen_next]
  exact execMicroOps_pulse (r := .latch) hshifted.1.2.2

/-- WRITEDIGIT's first bit cell, then the fifteen others and the latch pulse (R87). -/
theorem writeDigitOps_cut (f : Frame) :
    ((microOpsOf (.writeDigit f)).drop 0).take 4 = cellsOps [(addrByte f).getLsbD 7] ∧
      ((microOpsOf (.writeDigit f)).drop 4).take 63 = cellsOps (frameBitsMsbFirst f).tail ++ pulseOps .latch :=
  ⟨rfl, rfl⟩

/-- Turns that put issuer 1's whole WRITEDIGIT between the first bit cell of issuer 0's and the rest of it. -/
def cutTurns : List Turn :=
  List.replicate 4 (.issuer 0) ++ (List.replicate 67 (.issuer 1) ++ List.replicate 63 (.issuer 0))

/-- Run so, the fifteen bits that issuer 0 had left are shifted in after issuer 1's frame, of which they leave one bit,
and the mixture is committed. -/
theorem run_cutTurns {s : State} {f f' : Frame} (hf : s.fault = .none) (hready : s.chainReady)
    (hq : s.seqAt 0 = some (.run (.writeDigit f) 0)) (hq' : s.seqAt 1 = some (.run (.writeDigit f') 0))
    (hs : s.schedule = cutTurns) :
    ∃ t, run 134 s = .next t ∧ t.fault = .none ∧ t.seqAt 0 = some .idle ∧ t.seqAt 1 = some .idle ∧
      t.chain.out = (frameBitsMsbFirst f).tail.foldl (fun v b => v.shiftIn (Level.ofBool b)) (Cells.ofFrame f') := by
  obtain ⟨hfirst, hothers⟩ := writeDigitOps_cut f
  have hx₁ := execMicroOps_cells [(addrByte f).getLsbD 7] hready.1.1 hready.1.2.1
  rw [← hfirst] at hx₁
  obtain ⟨s₁, hrun₁, hf₁, hready₁, -, hs₁, hq₁, hother₁⟩ :=
    run_block hf hq hs (by simp) hx₁ (s.cellsOn_wired _ hready).1
  have hx₂ : execMicroOps (((microOpsOf (.writeDigit f')).drop 0).take 67) s₁ = _ :=
    execMicroOps_writeDigit f' hready₁.1
  obtain ⟨hwritten, hchain₂⟩ := State.writeOn_wired f' hready₁
  obtain ⟨s₂, hrun₂, hf₂, hready₂, hsame₂, hs₂, hq₂, hother₂⟩ :=
    run_block hf₁ ((hother₁ 1 (by decide)).trans hq') hs₁ (by simp) hx₂ hwritten
  obtain ⟨v, hx₃, hready₃, hchain₃⟩ := execMicroOps_cells_latch (frameBitsMsbFirst f).tail hready₂
  rw [← hothers] at hx₃
  obtain ⟨t, hrun₃, hf₃, -, hsame₃, -, hq₃, hother₃⟩ :=
    run_block hf₂ ((hother₂ 0 (by decide)).trans hq₁) (hs₂.trans (List.append_nil _).symm) (by simp) hx₃ hready₃
  refine ⟨t, ?_, hf₃, hq₃, (hother₃ 1 (by decide)).trans hq₂, ?_⟩
  · rw [show 134 = 4 + (67 + 63) from rfl, run_add, hrun₁, andThen_next, run_add, hrun₂, andThen_next, hrun₃]
  · rw [hsame₃, hchain₃, hsame₂, hchain₂]

/-- The roles as wired, the lines as INITIALISE leaves them, and two writes just issued: position 1, pattern 0xFF, by
issuer 0 and position 0, pattern 0xFF, by issuer 1. -/
def twoWritesIssued : State :=
  { State.reset with
    init := true
    pinData := .pin 9
    pinClock := .pin 8
    pinLatch := .pin 7
    gpio := [(7, ⟨.output, .low⟩), (8, ⟨.output, .low⟩), (9, ⟨.output, .low⟩)]
    issuers := [⟨.run (.writeDigit (frameOf 1 0xFF)) 0, [], []⟩, ⟨.run (.writeDigit (frameOf 0 0xFF)) 0, [], []⟩]
    schedule := cutTurns }

/-- Settles O59: bit 0 of issuer 1's pattern ends on the select line of panel 7. -/
theorem interleavedWritesCanCorruptThePanel : Obligations.InterleavedWritesCanCorruptThePanel := by
  unfold Obligations.InterleavedWritesCanCorruptThePanel
  have hready : twoWritesIssued.chainReady := by decide
  obtain ⟨t, hrun, hfault, hidle, hidle', hout⟩ := run_cutTurns (s := twoWritesIssued) rfl hready rfl rfl rfl
  refine ⟨twoWritesIssued, t, _, _, by decide, hready, rfl, ?_, hrun, hidle, hidle', hfault, ?_, ?_⟩
  · simp [twoWritesIssued, cutTurns]
  · rw [hout]; decide
  · rw [hout]; decide

end Sys2Proof.Machine

/-! PROOFS. The command word (spec/30_encoding.md R55 to R60). A format is a list of fields that cover the word, so two
words are equal when their fields are. Each format's legal words are described once, by their fields
(`decode_eq_ok_iff`). -/

namespace Sys2Proof.Machine

/-- The lowest bit and the width of each field of format I, `op` first (R56). -/
def fieldsI : List (Nat × Nat) := [(60, 4), (59, 1), (56, 3), (48, 8), (40, 8), (32, 8), (0, 32)]

/-- The same for format W (R57). -/
def fieldsW : List (Nat × Nat) := [(60, 4), (16, 44), (8, 8), (0, 8)]

/-- The same for format D (R58). -/
def fieldsD : List (Nat × Nat) := [(60, 4), (8, 52), (0, 8)]

/-- Every bit of the word lies in a field. -/
def CoverWord (fields : List (Nat × Nat)) : Prop := ∀ i < 64, ∃ f ∈ fields, f.1 ≤ i ∧ i < f.1 + f.2

theorem fieldsI_coverWord : CoverWord fieldsI := by unfold CoverWord; decide

theorem fieldsW_coverWord : CoverWord fieldsW := by unfold CoverWord; decide

theorem fieldsD_coverWord : CoverWord fieldsD := by unfold CoverWord; decide

theorem CoverWord.eq_iff {fields : List (Nat × Nat)} (hc : CoverWord fields) {u v : CommandWord} :
    u = v ↔ ∀ f ∈ fields, u.extractLsb' f.1 f.2 = v.extractLsb' f.1 f.2 := by
  refine ⟨fun h f _ => h ▸ rfl, fun h => BitVec.eq_of_getLsbD_eq fun i hi => ?_⟩
  obtain ⟨f, hf, hlo, hhi⟩ := hc i hi
  have hbit := congrArg (·.getLsbD (i - f.1)) (h f hf)
  simpa [BitVec.getLsbD_extractLsb', show i - f.1 < f.2 by omega, Nat.add_sub_of_le hlo] using hbit

/-- A field put into the word reads back. -/
@[simp] theorem extractLsb'_fieldAt_self {n lo : Nat} (v : BitVec n) (h : lo + n ≤ 64) :
    (fieldAt v lo).extractLsb' lo n = v := by
  ext i hi
  simp [fieldAt, show lo + i < 64 by omega, BitVec.getLsbD_eq_getElem hi]

/-- A field put into the word leaves the bits below and above it 0. -/
@[simp] theorem extractLsb'_fieldAt_of_disjoint {n m lo lo' : Nat} (v : BitVec n) (h : lo' + m ≤ lo ∨ lo + n ≤ lo') :
    (fieldAt v lo).extractLsb' lo' m = 0#m := by
  ext i hi
  have hbit : lo' + i < lo ∨ v.getLsbD (lo' + i - lo) = false :=
    h.imp (by omega) fun h => BitVec.getLsbD_of_ge v _ (by omega)
  rcases hbit with hbit | hbit <;> simp [fieldAt, hbit]

theorem extractLsb'_one (w : CommandWord) (lo : Nat) : w.extractLsb' lo 1 = BitVec.ofBool (w.getLsbD lo) := by
  ext i hi
  obtain rfl : i = 0 := by omega
  simp

theorem getLsbD_eq_extractLsb'_one (w : CommandWord) (lo : Nat) : w.getLsbD lo = (w.extractLsb' lo 1).getLsbD 0 := by
  simp

theorem and_eq_self_of_allOnes {n : Nat} {k : BitVec n} (v : BitVec n) (h : k = BitVec.allOnes n) : v &&& k = v := by
  rw [h, BitVec.and_allOnes]

-- ==== The legal words of each format ====

/-- Format I's `op`, its reserved field zero (R56, R59). -/
def LegalI (w : CommandWord) : Prop := opField w = 1#4 ∧ w.extractLsb' 56 3 = 0#3

/-- Format W's `op`, its reserved field zero (R57, R59). -/
def LegalW (w : CommandWord) : Prop := opField w = 2#4 ∧ w.extractLsb' 16 44 = 0#44

/-- Format D's `op`, its reserved field zero (R58, R59). -/
def LegalD (w : CommandWord) : Prop := opField w = 3#4 ∧ w.extractLsb' 8 52 = 0#52

/-- The INITIALISE of a word's fields (R56). -/
def commandI (w : CommandWord) : Instr :=
  .initialise (w.extractLsb' 48 8) (w.extractLsb' 40 8) (w.extractLsb' 32 8) (w.getLsbD 59) (w.extractLsb' 0 32)

/-- The WRITEDIGIT of a word's fields (R57). -/
def commandW (w : CommandWord) : Instr := .writeDigit (w.extractLsb' 8 8) (w.extractLsb' 0 8)

/-- The DIGITS of a word's field (R58). -/
def commandD (w : CommandWord) : Instr := .digits (w.extractLsb' 0 8)

theorem decodeI_eq_ok_iff {w : CommandWord} {i : Instr} :
    decodeI w = .ok i ↔ w.extractLsb' 56 3 = 0#3 ∧ i = commandI w := by
  unfold decodeI
  split <;> simp [*, commandI, eq_comm (a := i)]

theorem decodeW_eq_ok_iff {w : CommandWord} {i : Instr} :
    decodeW w = .ok i ↔ w.extractLsb' 16 44 = 0#44 ∧ i = commandW w := by
  unfold decodeW
  split <;> simp [*, commandW, eq_comm (a := i)]

theorem decodeD_eq_ok_iff {w : CommandWord} {i : Instr} :
    decodeD w = .ok i ↔ w.extractLsb' 8 52 = 0#52 ∧ i = commandD w := by
  unfold decodeD
  split <;> simp [*, commandD, eq_comm (a := i)]

/-- What the decoder accepts, and what it reads (R56 to R59). -/
theorem decode_eq_ok_iff {w : CommandWord} {i : Instr} :
    decode w = .ok i ↔ (LegalI w ∧ i = commandI w) ∨ (LegalW w ∧ i = commandW w) ∨ (LegalD w ∧ i = commandD w) := by
  unfold decode LegalI LegalW LegalD
  split
  · next hop => simp [hop, decodeI_eq_ok_iff]
  · split
    · next hop => simp [hop, decodeW_eq_ok_iff]
    · split
      · next hop => simp [hop, decodeD_eq_ok_iff]
      · simp [*]

theorem decode_of_legalI {w : CommandWord} (h : LegalI w) : decode w = .ok (commandI w) :=
  decode_eq_ok_iff.2 (.inl ⟨h, rfl⟩)

theorem decode_of_legalW {w : CommandWord} (h : LegalW w) : decode w = .ok (commandW w) :=
  decode_eq_ok_iff.2 (.inr (.inl ⟨h, rfl⟩))

theorem decode_of_legalD {w : CommandWord} (h : LegalD w) : decode w = .ok (commandD w) :=
  decode_eq_ok_iff.2 (.inr (.inr ⟨h, rfl⟩))

theorem decode_eq_error_iff {w : CommandWord} :
    (∃ e, decode w = .error e) ↔ ¬ LegalI w ∧ ¬ LegalW w ∧ ¬ LegalD w := by
  constructor
  · rintro ⟨e, he⟩
    refine ⟨fun h => ?_, fun h => ?_, fun h => ?_⟩
    · simp [decode_of_legalI h] at he
    · simp [decode_of_legalW h] at he
    · simp [decode_of_legalD h] at he
  · rintro ⟨hI, hW, hD⟩
    cases h : decode w with
    | error e => exact ⟨e, rfl⟩
    | ok i => simp [decode_eq_ok_iff, hI, hW, hD] at h

-- ==== Encoding a legal word's command (R59) ====

theorem encode_commandI {w : CommandWord} (h : LegalI w) : encode (commandI w) = some w := by
  obtain ⟨hop, hres⟩ := h
  rw [opField] at hop
  refine congrArg some (fieldsI_coverWord.eq_iff.2 ?_)
  simp [fieldsI, BitVec.extractLsb'_or, extractLsb'_one, hop, hres]

theorem encode_commandW {w : CommandWord} (h : LegalW w) : encode (commandW w) = some w := by
  obtain ⟨hop, hres⟩ := h
  rw [opField] at hop
  refine congrArg some (fieldsW_coverWord.eq_iff.2 ?_)
  simp [fieldsW, BitVec.extractLsb'_or, hop, hres]

theorem encode_commandD {w : CommandWord} (h : LegalD w) : encode (commandD w) = some w := by
  obtain ⟨hop, hres⟩ := h
  rw [opField] at hop
  refine congrArg some (fieldsD_coverWord.eq_iff.2 ?_)
  simp [fieldsD, BitVec.extractLsb'_or, hop, hres]

/-- Settles O2, by the format of the word. -/
theorem encodeOfDecodeIsTheWord : Obligations.EncodeOfDecodeIsTheWord := by
  unfold Obligations.EncodeOfDecodeIsTheWord
  intro w i h
  rcases decode_eq_ok_iff.1 h with ⟨hI, rfl⟩ | ⟨hW, rfl⟩ | ⟨hD, rfl⟩
  · exact encode_commandI hI
  · exact encode_commandW hW
  · exact encode_commandD hD

-- ==== Match and mask (R56 to R58) ====

/-- Field by field the mask keeps `op` and the reserved field and clears the others; so for the other two formats. -/
theorem masked_eq_iff_legalI (w : CommandWord) : w &&& 0xF700000000000000#64 = 0x1000000000000000#64 ↔ LegalI w := by
  rw [fieldsI_coverWord.eq_iff]
  simp [fieldsI, LegalI, opField, BitVec.extractLsb'_and, and_eq_self_of_allOnes]

theorem masked_eq_iff_legalW (w : CommandWord) : w &&& 0xFFFFFFFFFFFF0000#64 = 0x2000000000000000#64 ↔ LegalW w := by
  rw [fieldsW_coverWord.eq_iff]
  simp [fieldsW, LegalW, opField, BitVec.extractLsb'_and, and_eq_self_of_allOnes]

theorem masked_eq_iff_legalD (w : CommandWord) : w &&& 0xFFFFFFFFFFFFFF00#64 = 0x3000000000000000#64 ↔ LegalD w := by
  rw [fieldsD_coverWord.eq_iff]
  simp [fieldsD, LegalD, opField, BitVec.extractLsb'_and, and_eq_self_of_allOnes]

/-- Settles O1: the word has its row's match under its mask (`Laws.CommandRow`), so it is legal, and its fields are the
command's operands. -/
theorem decodeOfEncodeIsTheCommand : Obligations.DecodeOfEncodeIsTheCommand := by
  unfold Obligations.DecodeOfEncodeIsTheCommand
  intro i hwf
  cases i with
  | initialise d c l dv us =>
    obtain ⟨-, -, hrow⟩ := Laws.CommandRow.initialise d c l dv us
    refine ⟨_, rfl, (decode_of_legalI ((masked_eq_iff_legalI _).1 (hrow _ _ _ rfl rfl))).trans ?_⟩
    rw [commandI, getLsbD_eq_extractLsb'_one]
    simp [BitVec.extractLsb'_or]
  | writeDigit p pat =>
    obtain ⟨-, -, hrow⟩ := Laws.CommandRow.writeDigit p pat
    refine ⟨_, rfl, (decode_of_legalW ((masked_eq_iff_legalW _).1 (hrow _ _ _ rfl rfl))).trans ?_⟩
    simp [commandW, BitVec.extractLsb'_or]
  | digits x =>
    obtain ⟨-, -, hrow⟩ := Laws.CommandRow.digits x
    refine ⟨_, rfl, (decode_of_legalD ((masked_eq_iff_legalD _).1 (hrow _ _ _ rfl rfl))).trans ?_⟩
    simp [commandD, BitVec.extractLsb'_or]
  | shiftOut b => cases hwf
  | pulse l => cases hwf

/-- Settles O3: the match under the mask says the word is legal (`masked_eq_iff_legalI`). -/
theorem formatIWordsDecodeToTheirFields : Obligations.FormatIWordsDecodeToTheirFields := by
  unfold Obligations.FormatIWordsDecodeToTheirFields
  intro w
  rw [ne_eq, masked_eq_iff_legalI]
  refine ⟨decode_of_legalI, fun hI d c l dv us h => ?_⟩
  rcases decode_eq_ok_iff.1 h with ⟨hI', -⟩ | ⟨-, hi⟩ | ⟨-, hi⟩
  · exact hI hI'
  · cases hi
  · cases hi

/-- Settles O4, as O3. -/
theorem formatWWordsDecodeToTheirFields : Obligations.FormatWWordsDecodeToTheirFields := by
  unfold Obligations.FormatWWordsDecodeToTheirFields
  intro w
  rw [ne_eq, masked_eq_iff_legalW]
  refine ⟨decode_of_legalW, fun hW p pat h => ?_⟩
  rcases decode_eq_ok_iff.1 h with ⟨-, hi⟩ | ⟨hW', -⟩ | ⟨-, hi⟩
  · cases hi
  · exact hW hW'
  · cases hi

/-- Settles O5, as O3. -/
theorem formatDWordsDecodeToTheirFields : Obligations.FormatDWordsDecodeToTheirFields := by
  unfold Obligations.FormatDWordsDecodeToTheirFields
  intro w
  rw [ne_eq, masked_eq_iff_legalD]
  refine ⟨decode_of_legalD, fun hD x h => ?_⟩
  rcases decode_eq_ok_iff.1 h with ⟨-, hi⟩ | ⟨-, hi⟩ | ⟨hD', -⟩
  · cases hi
  · cases hi
  · exact hD hD'

/-- The sixteen values of `op`: reserved, or one of the three formats' (R59). -/
theorem op_cases (op : BitVec 4) : (op = 0#4 ∨ 4#4 ≤ op) ∨ op = 1#4 ∨ op = 2#4 ∨ op = 3#4 := by
  revert op; decide

/-- Settles O6: the decoder rejects what is legal in no format (`decode_eq_error_iff`), sorted by the value of `op`. -/
theorem illegalWordsAreExactlyTheReservedOnes : Obligations.IllegalWordsAreExactlyTheReservedOnes := by
  unfold Obligations.IllegalWordsAreExactlyTheReservedOnes
  intro w
  refine ⟨?_, fun i => decode_wf⟩
  rw [decode_eq_error_iff, LegalI, LegalW, LegalD, opField]
  generalize w.extractLsb' 60 4 = op
  rcases op_cases op with (rfl | h) | rfl | rfl | rfl
  · simp
  · have h1 : op ≠ 1#4 := by bv_omega
    have h2 : op ≠ 2#4 := by bv_omega
    have h3 : op ≠ 3#4 := by bv_omega
    simp [h, h1, h2, h3]
  · simp
  · simp
  · simp

/-- Settles O7, by evaluating the decoder on the five words. -/
theorem vectorWordsDecode : Obligations.VectorWordsDecode := by
  unfold Obligations.VectorWordsDecode
  decide

/-- Settles O8: `oneHot_getLsbD`. -/
theorem addressByteIsOneHot : Obligations.AddressByteIsOneHot := by
  unfold Obligations.AddressByteIsOneHot
  exact fun _ hp k => oneHot_getLsbD hp k

end Sys2Proof.Machine

/-! PROOFS. The twelve commands of `digits()` (spec/30_encoding.md R63). -/

namespace Sys2Proof.Machine

/-- Returns bytes to issuer `j`, oldest first: `State.giveByte` of each in turn (`State.giveBytes_giveByte`). -/
def State.giveBytes (j : Nat) (bs : List Byte) (s : State) : State :=
  { s with issuers := s.issuers.modify j fun i => { i with returned := i.returned ++ bs } }

@[simp] theorem State.giveBytes_nil (j : Nat) (s : State) : s.giveBytes j [] = s := by
  have hid : (fun i : Issuer => { i with returned := i.returned ++ [] }) = id := by
    funext i
    simp
  rw [State.giveBytes, hid, List.modify_id]

theorem State.giveBytes_giveByte (j : Nat) (b : Byte) (bs : List Byte) (s : State) :
    (s.giveByte j b).giveBytes j bs = s.giveBytes j (b :: bs) := by
  simp [State.giveBytes, State.giveByte, List.modify_modify_eq, Function.comp_def]

/-- DIGITS of an index with an entry returns it (R71). -/
theorem exec_digits_of_tableAt {s : State} {x b : Byte} (hi : s.canIssue) (hb : tableAt s.params x = some b) :
    exec (.digits x) s = .next (s.giveByte s.active b) := by
  simp only [exec, execDigits, issue_of_canIssue s _ hi, hb]

/-- DIGITS commands one after another return their entries in order. -/
theorem foldl_exec_digits {xs bs : List Byte} {s : State} (hi : s.canIssue)
    (h : xs.map (tableAt s.params) = bs.map some) :
    (xs.map Instr.digits).foldl (fun r i => andThen r (exec i)) (.next s) = .next (s.giveBytes s.active bs) := by
  induction xs generalizing s bs with
  | nil =>
    obtain rfl : bs = [] := by simpa using h.symm
    simp
  | cons x xs ih =>
    cases bs with
    | nil => cases h
    | cons b bs =>
      obtain ⟨hb, hbs⟩ := List.cons.inj h
      have hi' : (s.giveByte s.active b).canIssue := ⟨hi.1, (s.seqAt_giveByte _ _ b).trans hi.2⟩
      rw [List.map_cons, List.foldl_cons, andThen_next, exec_digits_of_tableAt hi hb, ih hi' hbs]
      exact congrArg _ (s.giveBytes_giveByte s.active b bs)

/-- The indices 0 to 11 read the whole table (R70). -/
theorem map_tableAt_range (p : Params) :
    ((List.range Config.tableSize).map (BitVec.ofNat 8)).map (tableAt p) = (tableEntries p).map some := by
  refine List.ext_getElem (by simp [tableEntries, Config.tableSize]) fun i hi hi' => ?_
  have hlt : i < (tableEntries p).length := by simpa using hi'
  have hmod : i % 256 = i := Nat.mod_eq_of_lt (hlt.trans (by simp [tableEntries]))
  simp [tableAt, hmod, List.getElem?_eq_getElem hlt]

/-- Settles O44: the bytes returned are the table's entries. -/
theorem twelveDigitsReturnTheTable : Obligations.TwelveDigitsReturnTheTable := by
  unfold Obligations.TwelveDigitsReturnTheTable
  intro s hi
  have hcall : digitsCall = ((List.range Config.tableSize).map (BitVec.ofNat 8)).map Instr.digits := by
    simp [digitsCall]
  rw [hcall, foldl_exec_digits hi (map_tableAt_range s.params)]
  rfl

end Sys2Proof.Machine

/-! PROOFS. DIGITS of one index (spec/40_digit_encoder.md R70 to R72). -/

namespace Sys2Proof.Machine

-- The table, entry by entry (R70).

theorem tableAt_zero (p : Params) : tableAt p 0 = some 0xC0 := rfl

theorem tableAt_numeral {p : Params} {index : Byte} {k : Fin 9} (h : index.toNat = k.val + 1) :
    tableAt p index = some p.numerals[k.val] := by
  have hk : k.val < p.numerals.toList.length := by simp
  rw [tableAt, tableEntries, h, List.getElem?_cons_succ, List.getElem?_append_left hk, List.getElem?_eq_getElem hk,
    Vector.getElem_toList]

theorem getElem?_tableEntries_past_numerals (p : Params) (i : Nat) :
    (tableEntries p)[i + 10]? = [Config.table10, Config.table11][i]? := by
  rw [tableEntries, List.getElem?_cons_succ, List.getElem?_append_right (by simp)]
  simp

theorem tableAt_ten (p : Params) : tableAt p 10 = some 0x7F := getElem?_tableEntries_past_numerals p 0

theorem tableAt_eleven (p : Params) : tableAt p 11 = some 0xFF := getElem?_tableEntries_past_numerals p 1

/-- No index above 11 has an entry (R72). -/
theorem tableAt_eq_none {p : Params} {index : Byte} (h : 12 ≤ index.toNat) : tableAt p index = none :=
  List.getElem?_eq_none (by simpa [tableEntries] using h)

/-- DIGITS of an index without an entry returns a free byte (R72). -/
theorem exec_digits_of_tableAt_none {s : State} {index : Byte} (hi : s.canIssue)
    (hn : tableAt s.params index = none) :
    exec (.digits index) s = .next (s.giveByte s.active (Config.freeByte s.fresh)).tick := by
  simp only [exec, execDigits, issue_of_canIssue s _ hi, hn]

/-- Settles O42: the byte returned is the index's entry (`exec_digits_of_tableAt`), and the table says which that is. -/
theorem digitsReturnsTheTableEntry : Obligations.DigitsReturnsTheTableEntry := by
  unfold Obligations.DigitsReturnsTheTableEntry
  intro s index hi hle
  obtain ⟨b, hb⟩ := tableAt_isSome (p := s.params) hle
  have entry_unique {v : Byte} (hv : tableAt s.params index = some v) : b = v := Option.some.inj (hb.symm.trans hv)
  refine ⟨b, exec_digits_of_tableAt hi hb, ?_, ?_, ?_, fun k hk => entry_unique (tableAt_numeral hk)⟩
  · rintro rfl
    exact entry_unique (tableAt_zero s.params)
  · rintro rfl
    exact entry_unique (tableAt_ten s.params)
  · rintro rfl
    exact entry_unique (tableAt_eleven s.params)

/-- Settles O43: the byte is the free one of `exec_digits_of_tableAt_none`. -/
theorem digitsAboveElevenReturnsSomeByte : Obligations.DigitsAboveElevenReturnsSomeByte := by
  unfold Obligations.DigitsAboveElevenReturnsSomeByte
  intro s index hi hle
  exact ⟨Config.freeByte s.fresh, exec_digits_of_tableAt_none hi (tableAt_eq_none hle)⟩

end Sys2Proof.Machine

/-! PROOFS. SHIFTOUT and PULSE by themselves (spec/41_shift_register_bus.md R75, R76): their events, the lines they leave
and what they do not touch. -/

namespace Sys2Proof.Machine

/-- Settles O47: the state of `State.pulseOn`. -/
theorem pulseDrivesHighWaitsDrivesLow : Obligations.PulseDrivesHighWaitsDrivesLow := by
  unfold Obligations.PulseDrivesHighWaitsDrivesLow
  intro s line q hf hpin
  have hframe := s.pulseOn_busFrame q
  exact ⟨_, exec_pulse_of_pinReg line hf hpin, s.pulseOn_trace q, s.pulseOn_line_self q, s.pulseOn_line_other q,
    hframe.regs, hframe.issuers, hframe.schedule⟩

/-- SHIFTOUT needs no latch pin (R76). -/
theorem exec_shiftOut_of_pins {s : State} {d c : PinId} (b : Byte) (hf : s.fault = .none) (hd : s.pinData = .pin d)
    (hc : s.pinClock = .pin c) : exec (.shiftOut b) s = .next (s.cellsOn d c (byteBitsMsbFirst b)) :=
  (execRoutine_of_not_halted _ hf).trans (execMicroOps_cells _ hd hc)

/-- The bit sent last is bit 0 (R76). -/
theorem byteBitsMsbFirst_eq_append (b : Byte) :
    byteBitsMsbFirst b = ((List.range 7).map fun j => b.getLsbD (7 - j)) ++ [b.getLsbD 0] := rfl

/-- Settles O48: the state of `State.cellsOn`, the bits sent being bit 7 first and bit 0 last. -/
theorem shiftOutSendsEightBitCells : Obligations.ShiftOutSendsEightBitCells := by
  unfold Obligations.ShiftOutSendsEightBitCells
  intro s byte d c hf hpd hpc
  have hframe := s.cellsOn_busFrame d c (byteBitsMsbFirst byte)
  refine ⟨_, exec_shiftOut_of_pins byte hf hpd hpc, ?_, fun hdc hd hc => ?_,
    fun r hd hc => s.cellsOn_line_other d c r _ hd hc, hframe.regs, hframe.issuers, hframe.schedule⟩
  · rw [State.cellsOn_trace, byteBitsMsbFirst, List.flatMap_map]
    rfl
  · rw [byteBitsMsbFirst_eq_append]
    exact s.cellsOn_lines d c _ (byte.getLsbD 0) hdc hd hc

-- What is read off the events of bit cells (R20).

theorem drivesOn_data_flatMap_cellEvents {d c : PinId} (h : d ≠ c) (w : Delay) (bs : List Bool) :
    drivesOn d (bs.flatMap (cellEvents d c w)) = bs := by
  induction bs with
  | nil => rfl
  | cons b bs ih => simp [cellEvents, pulseEvents, drivesOn, h.symm, ih]

theorem waitsOf_flatMap_cellEvents (d c : PinId) (w : Delay) (bs : List Bool) :
    waitsOf (bs.flatMap (cellEvents d c w)) = List.replicate bs.length w := by
  induction bs with
  | nil => rfl
  | cons b bs ih => simp [cellEvents, pulseEvents, waitsOf, ih, List.replicate_succ]

theorem length_flatMap_cellEvents (d c : PinId) (w : Delay) (bs : List Bool) :
    (bs.flatMap (cellEvents d c w)).length = bs.length * 4 := by
  simp [cellEvents, pulseEvents]

/-- A routine has a next state only while the block is not halted (R108). -/
theorem fault_none_of_execRoutine_next {us : List MicroOp} {s t : State} (h : execRoutine us s = .next t) :
    s.fault = .none := by
  cases hh : s.halted with
  | false => exact (State.halted_eq_false s).1 hh
  | true => simp [execRoutine, hh] at h

/-- Settles O49: the events are eight bit cells, and the data pin is driven once in each. -/
theorem shiftOutDrivesMostSignificantBitFirst : Obligations.ShiftOutDrivesMostSignificantBitFirst := by
  unfold Obligations.ShiftOutDrivesMostSignificantBitFirst
  intro s t byte d c hpd hpc hdc hnext
  have ht := exec_shiftOut_of_pins byte (fault_none_of_execRoutine_next hnext) hpd hpc
  obtain rfl : t = s.cellsOn d c (byteBitsMsbFirst byte) := Host.Outcome.next.inj (hnext.symm.trans ht)
  refine ⟨_, State.cellsOn_trace s d c _, drivesOn_data_flatMap_cellEvents hdc _ _, ?_, ?_⟩
  · rw [waitsOf_flatMap_cellEvents, List.length_replicate, byteBitsMsbFirst_length]
  · rw [length_flatMap_cellEvents, byteBitsMsbFirst_length]

end Sys2Proof.Machine

/-! PROOFS. A complete INITIALISE (spec/42_display_driver.md R85, R86): it configures its three lines, so that its drives
to 0 find outputs and raise nothing. -/

namespace Sys2Proof.Machine

theorem Gpio.mode_configure (g : Gpio) (p q : PinId) :
    ((g.configure p).line q).mode = if q = p then .output else (g.line q).mode := by
  split
  · next h => rw [h, Gpio.line_configure_self]
  · next h => rw [Gpio.line_configure_other _ _ _ h]

/-- A drive to 0 of an output (R19). -/
theorem State.drvLine_false_line {s : State} {p : PinId} (h : (s.gpio.line p).mode = .output) (q : PinId) :
    (s.drvLine p false).gpio.line q = if q = p then ⟨.output, .low⟩ else s.gpio.line q := by
  split
  · next hq => rw [hq, State.drvLine_gpio, Gpio.line_drive_self _ _ _ h]; rfl
  · next hq => rw [State.drvLine_gpio, Gpio.line_drive_other _ _ _ _ hq]

/-- The chain reacts to rises only (R34). -/
theorem State.drvLine_false_chain {s : State} {p : PinId} (h : (s.gpio.line p).mode = .output) :
    (s.drvLine p false).chain = s.chain := by
  rw [State.drvLine_chain, Chain.react_not_high]
  simp [Gpio.line_drive_self _ _ _ h, Level.ofBool]

/-- INITIALISE's state before its three drives: the pins assigned, their lines configured (R85 u0 to u3). -/
def State.configured (d c l : PinId) (s : State) : State := (((s.setPins d c l).cfgLine d).cfgLine c).cfgLine l

theorem State.configured_mode (s : State) {d c l q : PinId} (h : q = d ∨ q = c ∨ q = l) :
    ((s.configured d c l).gpio.line q).mode = .output := by
  rcases h with rfl | rfl | rfl <;> simp [State.configured, Gpio.mode_configure]

theorem State.configured_line_other (s : State) {d c l q : PinId} (hd : q ≠ d) (hc : q ≠ c) (hl : q ≠ l) :
    (s.configured d c l).gpio.line q = s.gpio.line q := by
  simp [State.configured, Gpio.line_configure_other, hd, hc, hl]

/-- INITIALISE's state after its three drives (R85 u4 to u6). -/
def State.lowered (d c l : PinId) (s : State) : State :=
  (((s.configured d c l).drvLine d false).drvLine c false).drvLine l false

theorem State.initialiseOn_eq (s : State) (d c l : PinId) (dv : Bool) (us : Delay) :
    s.initialiseOn d c l dv us = ((s.lowered d c l).optionalDelay dv us).setInit := rfl

/-- Each of the three drives finds its line an output, whichever of the roles share a pin (R85, U6). -/
theorem State.lowered_outputs (s : State) (d c l : PinId) :
    let s₀ := s.configured d c l
    (s₀.gpio.line d).mode = .output ∧ ((s₀.drvLine d false).gpio.line c).mode = .output ∧
      (((s₀.drvLine d false).drvLine c false).gpio.line l).mode = .output := by
  intro s₀
  have hframe := s₀.drvLine_busFrame d false
  exact ⟨s.configured_mode (.inl rfl), hframe.mode c (s.configured_mode (.inr (.inl rfl))),
    (hframe.trans (State.drvLine_busFrame _ c false)).mode l (s.configured_mode (.inr (.inr rfl)))⟩

theorem State.lowered_line (s : State) (d c l q : PinId) :
    (s.lowered d c l).gpio.line q = if q = d ∨ q = c ∨ q = l then ⟨.output, .low⟩ else s.gpio.line q := by
  obtain ⟨hd, hc, hl⟩ := s.lowered_outputs d c l
  rw [State.lowered, State.drvLine_false_line hl, State.drvLine_false_line hc, State.drvLine_false_line hd]
  by_cases hql : q = l
  · simp [hql]
  by_cases hqc : q = c
  · simp [hqc]
  by_cases hqd : q = d
  · simp [hqd]
  simp [hqd, hqc, hql, s.configured_line_other hqd hqc hql]

theorem State.lowered_chain (s : State) (d c l : PinId) : (s.lowered d c l).chain = s.chain := by
  obtain ⟨hd, hc, hl⟩ := s.lowered_outputs d c l
  rw [State.lowered, State.drvLine_false_chain hl, State.drvLine_false_chain hc, State.drvLine_false_chain hd]
  rfl

theorem State.initialiseOn_trace (s : State) (d c l : PinId) (dv : Bool) (us : Delay) :
    (s.initialiseOn d c l dv us).trace = s.trace ++ initialiseEvents d c l := by
  simp [State.initialiseOn, initialiseEvents]

/-- An INITIALISE latched and given its nine turns ends in its list's state (R41, R85). -/
theorem run_initialise {s : State} (d c l : PinId) (dv : Bool) (us : Delay) (rest : List Turn) (hi : s.canIssue)
    (ht : s.turnsOf s.active 9 rest) :
    run 9 (s.setSeq s.active (.run (.initialise d c l dv us) 0)) =
      .next ((s.initialiseOn d c l dv us).setSchedule rest) :=
  run_from_issue 9 s _ rest hi (initialiseOps_length d c l dv us).symm (by decide) ht
    (execMicroOps_initialise s d c l dv us)

/-- Settles O27: the registers, the lines and the frame of `State.initialiseOn`. -/
theorem initialiseCompletesInNineSteps : Obligations.InitialiseCompletesInNineSteps := by
  unfold Obligations.InitialiseCompletesInNineSteps
  intro s rest d c l dv us hi ht
  obtain ⟨hissuers, -, hparams, hactive, hfresh, hfault, hinfo⟩ :=
    execMicroOps_frame (execMicroOps_initialise s d c l dv us)
  have hline : ∀ q, (s.initialiseOn d c l dv us).gpio.line q =
      if q = d ∨ q = c ∨ q = l then ⟨.output, .low⟩ else s.gpio.line q := by
    simp [State.initialiseOn_eq, State.lowered_line]
  have hchain : (s.initialiseOn d c l dv us).chain = s.chain := by
    simp [State.initialiseOn_eq, State.lowered_chain]
  refine ⟨_, _, exec_initialise_accepted d c l dv us hi, run_initialise d c l dv us rest hi ht, rfl, ?_, ?_,
    s.initialiseOn_trace d c l dv us, hline, hchain, hfault.trans hi.1, hinfo, hparams, hissuers, rfl, hactive,
    hfresh⟩
  · simp [State.hasPins, State.initialiseOn]
  · simp [State.initialiseOn]

end Sys2Proof.Machine

/-! PROOFS. What is read off the events of a complete WRITEDIGIT (spec/42_display_driver.md R89, R91,
spec/70_reset_and_hazards.md R132). -/

namespace Sys2Proof.Machine

theorem drivesOn_append (p : PinId) (es es' : List Event) :
    drivesOn p (es ++ es') = drivesOn p es ++ drivesOn p es' := by
  induction es with
  | nil => rfl
  | cons e es ih =>
    cases e with
    | drv q b => by_cases h : q = p <;> simp [drivesOn, h, ih]
    | cfg q => exact ih
    | wait w => exact ih

theorem waitsOf_append (es es' : List Event) : waitsOf (es ++ es') = waitsOf es ++ waitsOf es' := by
  induction es with
  | nil => rfl
  | cons e es ih =>
    cases e with
    | wait w => exact congrArg (w :: ·) ih
    | cfg q => exact ih
    | drv q b => exact ih

/-- A pulse is one pulse event on its own pin, and completes none begun before it (R20). -/
theorem pulsesOn_pulseEvents_append (p q : PinId) (w : Delay) (es : List Event) :
    pulsesOn p (pulseEvents q w ++ es) = (if q = p then 1 else 0) + pulsesOn p es := by
  simp [pulseEvents, pulsesOn, beginsPulse]

/-- The data drive of a bit cell begins no pulse event: a drive follows it, not a wait (R54). -/
theorem pulsesOn_cellEvents_append (p d c : PinId) (w : Delay) (b : Bool) (es : List Event) :
    pulsesOn p (cellEvents d c w b ++ es) = (if c = p then 1 else 0) + pulsesOn p es := by
  have hdata : beginsPulse p (.drv d b :: (pulseEvents c w ++ es)) = false := by
    cases b <;> rfl
  rw [cellEvents, List.cons_append, pulsesOn, hdata, pulsesOn_pulseEvents_append]
  simp

theorem pulsesOn_flatMap_cellEvents_append (p d c : PinId) (w : Delay) (bs : List Bool) (es : List Event) :
    pulsesOn p (bs.flatMap (cellEvents d c w) ++ es) = (if c = p then bs.length else 0) + pulsesOn p es := by
  induction bs with
  | nil => simp
  | cons b bs ih =>
    rw [List.flatMap_cons, List.append_assoc, pulsesOn_cellEvents_append, ih, List.length_cons]
    split <;> omega

/-- The events of WRITEDIGIT are its frame's sixteen bit cells and the latch pulse (R87). -/
theorem writeDigitEvents_eq (d c l : PinId) (w : Delay) (f : Frame) :
    writeDigitEvents d c l w f = (frameBitsMsbFirst f).flatMap (cellEvents d c w) ++ pulseEvents l w := by
  simp [writeDigitEvents, shiftOutEvents, frameBitsMsbFirst, List.flatMap_append]

theorem frameBitsMsbFirst_length (f : Frame) : (frameBitsMsbFirst f).length = 16 := rfl

theorem writeDigitEvents_length (d c l : PinId) (w : Delay) (f : Frame) : (writeDigitEvents d c l w f).length = 67 := by
  rw [writeDigitEvents_eq, List.length_append, length_flatMap_cellEvents, frameBitsMsbFirst_length]
  rfl

theorem waitsOf_writeDigitEvents (d c l : PinId) (w : Delay) (f : Frame) :
    waitsOf (writeDigitEvents d c l w f) = List.replicate Config.pulsesPerWrite w := by
  rw [writeDigitEvents_eq, waitsOf_append, waitsOf_flatMap_cellEvents, frameBitsMsbFirst_length]
  rfl

theorem nominalTime_writeDigitEvents (d c l : PinId) (w : Delay) (f : Frame) :
    nominalTime (writeDigitEvents d c l w f) = nominalWriteTime w := by
  rw [nominalTime, waitsOf_writeDigitEvents, List.map_replicate, List.sum_replicate, smul_eq_mul, nominalWriteTime]

theorem pulsesOn_writeDigitEvents (p d c l : PinId) (w : Delay) (f : Frame) :
    pulsesOn p (writeDigitEvents d c l w f) = (if c = p then 16 else 0) + if l = p then 1 else 0 := by
  have hlatch : pulsesOn p (pulseEvents l w) = if l = p then 1 else 0 := pulsesOn_pulseEvents_append p l w []
  rw [writeDigitEvents_eq, pulsesOn_flatMap_cellEvents_append, frameBitsMsbFirst_length, hlatch]

theorem drivesOn_data_writeDigitEvents {d c l : PinId} (hdc : d ≠ c) (hdl : d ≠ l) (w : Delay) (f : Frame) :
    drivesOn d (writeDigitEvents d c l w f) = frameBitsMsbFirst f := by
  have hlatch : drivesOn d (pulseEvents l w) = [] := by simp [pulseEvents, drivesOn, hdl.symm]
  rw [writeDigitEvents_eq, drivesOn_append, drivesOn_data_flatMap_cellEvents hdc, hlatch, List.append_nil]

/-- Settles O37: the events are those of `writeDigitEvents`, and each count is read off them by its own lemma. -/
theorem writeDigitEmitsSeventeenPulses : Obligations.WriteDigitEmitsSeventeenPulses := by
  unfold Obligations.WriteDigitEmitsSeventeenPulses
  intro s rest p pat d c l hi hinit hp hpins hdc hdl hcl ht
  have htrace := s.writeOn_trace d c l (frameOf p pat)
  rw [← writeDigitEvents_eq] at htrace
  have hdata := drivesOn_data_writeDigitEvents hdc hdl s.pulseDelay (frameOf p pat)
  have hbits : frameBitsMsbFirst (frameOf p pat) = byteBitsMsbFirst (oneHot p) ++ byteBitsMsbFirst pat := by
    rw [frameBitsMsbFirst, addrByte_frameOf, patternByte_frameOf]
  have htime := nominalTime_writeDigitEvents d c l s.pulseDelay (frameOf p pat)
  refine ⟨_, _, _, exec_writeDigit_accepted pat hi hinit hp, run_writeDigit _ rest hi hpins ht, htrace,
    writeDigitEvents_length .., ?_, ?_, ?_, htime, htime, ?_, ?_, ?_⟩
  · rw [waitsOf_writeDigitEvents, List.length_replicate]
  · simp [pulsesOn_writeDigitEvents, hcl.symm]
  · simp [pulsesOn_writeDigitEvents, hcl]
  · rw [hdata, frameBitsMsbFirst_length]
  · rw [hdata, hbits]
    exact List.take_left' (byteBitsMsbFirst_length _)
  · rw [hdata, hbits]
    exact List.drop_left' (byteBitsMsbFirst_length _)

end Sys2Proof.Machine

/-! PROOFS. The fault layer (spec/60_exceptions.md): what raises each of the three faults, and with what effect (R104 to
R107); the halted block (R108); and Reset, the way out of it (R109, spec/70_reset_and_hazards.md R120). -/

namespace Sys2Proof.Machine

/-- Nothing of a routine executes while halted (R108). -/
theorem execRoutine_of_halted (us : List MicroOp) {s : State} (h : s.fault ≠ .none) :
    execRoutine us s = .fault (.halted s.fault) := by
  simp [execRoutine, (State.halted_eq_true s).2 h]

/-- No operation is accepted while halted, a command at its gate and a routine at its start (R108). -/
theorem exec_of_halted (i : Instr) {s : State} (h : s.fault ≠ .none) : exec i s = .fault (.halted s.fault) := by
  cases i with
  | initialise | writeDigit | digits => simp [exec, execInitialise, execWriteDigit, execDigits, issue_of_halted s _ h]
  | shiftOut | pulse => exact execRoutine_of_halted _ h

/-- No issuer has a transition while halted (R108). -/
theorem advance_of_halted (j : Nat) {s : State} (h : s.fault ≠ .none) : advance j s = .fault (.halted s.fault) := by
  simp [advance, (State.halted_eq_true s).2 h]

/-- A halted block whose next turn is not Reset is stuck (R108, U17). -/
theorem step_of_halted {s : State} (hf : s.fault ≠ .none) (hr : s.resetNext = false) :
    step s = .fault (.halted s.fault) := by
  rcases step_cases s with ⟨ts, hs, -⟩ | ⟨-, -, -, hstep⟩ | ⟨-, j, s', hturn, hstep, -⟩
  · simp [State.resetNext, hs] at hr
  · rw [hstep, if_pos ((State.halted_eq_true s).2 hf)]
  · obtain ⟨-, -, -, -, -, hfault, -⟩ := hturn.frame
    rw [hstep, advance_of_halted j (hfault ▸ hf), hfault]

/-- A `Step` never faults: no micro-operation does (R101). -/
theorem stepMicroOp_ne_fault (j : Nat) (c : Command) (k : Nat) (s : State) (e : Fault) :
    stepMicroOp j c k s ≠ .fault e := by
  unfold stepMicroOp
  split
  · simp
  · next u _ =>
    intro h
    rcases andThen_eq_fault h with hu | ⟨m, -, hm⟩
    · exact execMicroOp_ne_fault u s e hu
    · cases hm

/-- While `FAULT` is 0 the transition of an issuer does not fault: raising one of the block's faults is a next state
(R104). -/
theorem advance_ne_fault (j : Nat) {s : State} (hf : s.fault = .none) (e : Fault) : advance j s ≠ .fault e := by
  rcases advance_cases j s with ⟨hn, -⟩ | ⟨-, -, ha⟩ | ⟨-, i, c, k, -, -, ha⟩ | ⟨-, i, w, ws, hi, hq, -, ha⟩
  · exact absurd hf hn
  · simp [ha]
  · exact ha ▸ stepMicroOp_ne_fault j c k s e
  · obtain ⟨t, ht⟩ := present_total (j := j) w (s := s.setScript j ws) hf
      (by rw [State.seqAt_setScript, State.seqAt_of_getElem? hi, hq])
    simp [ha, ht]

/-- While `FAULT` is 0 no step faults. -/
theorem step_ne_fault {s : State} (hf : s.fault = .none) (e : Fault) : step s ≠ .fault e := by
  rcases step_cases s with ⟨ts, -, hstep⟩ | ⟨-, -, -, hstep⟩ | ⟨-, j, s', hturn, hstep, -⟩
  · simp [hstep]
  · simp [hstep, (State.halted_eq_false s).2 hf]
  · obtain ⟨-, -, -, -, -, hfault, -⟩ := hturn.frame
    exact hstep ▸ advance_ne_fault j (hfault.trans hf) e

/-- Settles O16: Reset has a next state, and with `FAULT` 0 no step faults, so the block is halted and stuck. -/
theorem stepFaultsOnlyWhenHalted : Obligations.StepFaultsOnlyWhenHalted := by
  unfold Obligations.StepFaultsOnlyWhenHalted
  intro s r h
  have hf : s.fault ≠ .none := fun hf => step_ne_fault hf r h
  have hr : s.resetNext = false := by
    refine Bool.eq_false_iff.2 fun hr => ?_
    obtain ⟨ts, hstep⟩ := step_of_resetNext hr
    simp [hstep] at h
  rw [step_of_halted hf hr] at h
  cases h
  exact ⟨rfl, hf, hr⟩

/-- Settles O15: `step_of_halted` for the step, `exec_of_halted` for the operations. -/
theorem haltedBlockIsStuckUntilReset : Obligations.HaltedBlockIsStuckUntilReset := by
  unfold Obligations.HaltedBlockIsStuckUntilReset
  exact fun s hf => ⟨step_of_halted hf, fun i => exec_of_halted i hf⟩

/-- A scheduled Reset is taken whatever the state is (R109, R120). -/
theorem step_of_reset {s : State} {rest : List Turn} (h : s.schedule = .reset :: rest) :
    step s = .next (s.setSchedule rest).resetEvent := by
  simp [step, transition, h]

/-- Settles O10: every value is that of `State.resetEvent`. -/
theorem resetIsAlwaysEnabled : Obligations.ResetIsAlwaysEnabled := by
  unfold Obligations.ResetIsAlwaysEnabled
  intro s rest hs
  exact ⟨_, step_of_reset hs, rfl, rfl, rfl, rfl, rfl, rfl, rfl, rfl, fun p => Gpio.line_nil p,
    fun i h => ⟨Cells.allX_get i h, Cells.allX_get i h⟩, rfl, rfl, rfl⟩

theorem present_of_decode_error {w : CommandWord} {e : Illegal} (j : Nat) (s : State) (h : decode w = .error e) :
    present j w s = .next ((s.setActive j).raise .illegalCommand (.word w)) := by
  simp [present, h]

/-- A scheduled turn of an `Idle` issuer whose next word is illegal raises IllegalCommand (R107). -/
theorem step_of_decode_error {s : State} {j : Nat} {rest : List Turn} {iss : Issuer} {w : CommandWord}
    {ws : List CommandWord} {e : Illegal} (hs : s.schedule = .issuer j :: rest) (hf : s.fault = .none)
    (hi : s.issuers[j]? = some iss) (hq : iss.seq = .idle) (hw : iss.script = w :: ws) (hd : decode w = .error e) :
    step s = .next ((s.takeWord j ws rest).raise .illegalCommand (.word w)) := by
  rw [step_of_turn s j rest hs, advance_of_idle (s := s.setSchedule rest) hf hi hq hw, present_of_decode_error j _ hd]
  rfl

/-- Settles O13: the states of `State.takeWord` and `State.raise` written out. -/
theorem illegalWordRaisesIllegalCommand : Obligations.IllegalWordRaisesIllegalCommand := by
  unfold Obligations.IllegalWordRaisesIllegalCommand
  intro s j rest iss w ws e hs hf hi hq hw hd
  exact ⟨step_of_decode_error hs hf hi hq hw hd, rfl⟩

/-- WRITEDIGIT checks `INIT` before it looks at its position (R103, R105). -/
theorem exec_writeDigit_of_not_init {s : State} (p pat : Byte) (hi : s.canIssue) (hinit : s.init = false) :
    exec (.writeDigit p pat) s = .next (s.raise .notInitialised .none) := by
  simp [exec, execWriteDigit, issue_of_canIssue s _ hi, hinit]

/-- In the initialised state WRITEDIGIT raises PositionRange at a position above 7 (R106). -/
theorem exec_writeDigit_of_position {s : State} {p : Byte} (pat : Byte) (hi : s.canIssue) (hinit : s.init = true)
    (hp : 8 ≤ p.toNat) : exec (.writeDigit p pat) s = .next (s.raise .positionRange (.position p)) := by
  have hr : positionInRange p = false := by simpa [positionInRange] using hp
  simp [exec, execWriteDigit, issue_of_canIssue s _ hi, hinit, hr]

/-- Settles O30: `exec_writeDigit_of_not_init`, with the update written out. -/
theorem writeBeforeInitialiseRaisesNotInitialised : Obligations.WriteBeforeInitialiseRaisesNotInitialised := by
  unfold Obligations.WriteBeforeInitialiseRaisesNotInitialised
  intro s p pat hi hinit
  exact ⟨exec_writeDigit_of_not_init p pat hi hinit, rfl⟩

/-- Settles O31: `exec_writeDigit_of_position`, with the update written out. -/
theorem positionAboveSevenRaisesPositionRange : Obligations.PositionAboveSevenRaisesPositionRange := by
  unfold Obligations.PositionAboveSevenRaisesPositionRange
  intro s p pat hi hinit hp
  exact ⟨exec_writeDigit_of_position pat hi hinit hp, rfl⟩

end Sys2Proof.Machine

/-! PROOFS. Where a run begins and ends (spec/70_reset_and_hazards.md): reset and the start of a run meet the invariant
(R120, R122), and a finished run stays as it is (R122). And what a WRITEDIGIT does whose roles name no pin the chain is
clocked or latched by (R121, R128). -/

namespace Sys2Proof.Machine

/-- A complete WRITEDIGIT off the wired clock and latch pins leaves the chain: neither its bit cells nor its latch pulse
reach it (R121). -/
theorem State.writeOn_chain_unwired (s : State) (d c l : PinId) (f : Frame)
    (h : ∀ q, q = d ∨ q = c ∨ q = l → q ≠ s.params.wires.clock ∧ q ≠ s.params.wires.latch) :
    (s.writeOn d c l f).chain = s.chain := by
  have hparams := (s.cellsOn_busFrame d c (frameBitsMsbFirst f)).regs.params
  obtain ⟨hclock, hlatch⟩ := h l (.inr (.inr rfl))
  rw [← hparams] at hclock hlatch
  rw [State.writeOn, State.pulseOn_chain_unwired _ l hclock hlatch]
  exact s.cellsOn_chain_unwired d c _ fun q hq => h q (hq.imp_right .inl)

/-- Settles O36: the whole run is `State.writeOn`, which writes no register and, off the wired pins, leaves the chain. -/
theorem unwiredWriteLeavesTheDisplay : Obligations.UnwiredWriteLeavesTheDisplay := by
  unfold Obligations.UnwiredWriteLeavesTheDisplay
  intro s rest p pat d c l hi hinit hp hpins hoff ht
  refine ⟨_, _, exec_writeDigit_accepted pat hi hinit hp, run_writeDigit _ rest hi hpins ht, ?_, ?_⟩
  · rw [State.setSchedule_chain, s.writeOn_chain_unwired d c l _ hoff]
  · rw [State.setSchedule_fault, (s.writeOn_busFrame d c l _).regs.fault, hi.1]

/-- An issuer has nothing to do exactly when it is `Idle` with its script exhausted (R16, R122). -/
theorem Issuer.ready_eq_false {i : Issuer} : i.ready = false ↔ i.seq = .idle ∧ i.script = [] := by
  obtain ⟨seq, script, returned⟩ := i
  cases seq <;> cases script <;> simp [Issuer.ready]

/-- A run has ended when no issuer has anything to do and `FAULT` is 0 (R122). -/
theorem State.ended_iff (s : State) : s.ended = true ↔ (∀ i ∈ s.issuers, i.ready = false) ∧ s.fault = .none := by
  simp [State.ended, Issuer.ready_eq_false]

/-- With nothing scheduled and no issuer with anything to do the block is idle (R102, R122). -/
theorem step_of_none_ready {s : State} (hs : s.schedule = []) (hf : s.fault = .none)
    (hr : ∀ i ∈ s.issuers, i.ready = false) : step s = .next s := by
  simp [step, transition, hs, readyFrom_eq_nil.2 hr, (State.halted_eq_false s).2 hf]

/-- The turn of an issuer with nothing to do passes (R16). -/
theorem advance_of_not_ready {j : Nat} {s : State} (hf : s.fault = .none)
    (hr : ∀ i, s.issuers[j]? = some i → i.ready = false) : advance j s = .next s := by
  rcases advance_cases j s with ⟨hn, -⟩ | ⟨-, -, ha⟩ | ⟨-, i, c, k, hi, hq, -⟩ | ⟨-, i, w, ws, hi, -, hw, -⟩
  · exact absurd hf hn
  · exact ha
  · have hidle := (Issuer.ready_eq_false.1 (hr i hi)).1
    simp [hq] at hidle
  · have hempty := (Issuer.ready_eq_false.1 (hr i hi)).2
    simp [hw] at hempty

/-- Settles O20: no issuer is ready, so an unscheduled step is idle and a scheduled turn passes. -/
theorem endedRunStaysEnded : Obligations.EndedRunStaysEnded := by
  unfold Obligations.EndedRunStaysEnded
  intro s h
  obtain ⟨hr, hf⟩ := s.ended_iff.1 h
  refine ⟨fun hs => step_of_none_ready hs hf hr, fun j rest hs => ?_⟩
  rw [step_of_turn s j rest hs]
  exact advance_of_not_ready (s := s.setSchedule rest) hf fun i hi => hr i (List.mem_of_getElem? hi)

/-- The reset values with any issuers that are all `Idle` meet the invariant (R120). -/
theorem State.Inv.resetFor_setIssuers (n : Nat) {ps : Params} {is : List Issuer} (hw : ps.wires.distinct = true)
    (hidle : ∀ i ∈ is, i.seq = .idle) : ((State.resetFor n ps).setIssuers is).Inv := by
  refine ⟨rfl, hw, (by cases ·), fun j c h => ?_, rfl⟩
  obtain ⟨i, hi, rfl⟩ := State.seqAt_eq_some h
  rw [hidle i (List.mem_of_getElem? hi)]
  rfl

theorem State.inv_resetFor (n : Nat) {ps : Params} (hw : ps.wires.distinct = true) :
    (State.resetFor n ps).inv = true := by
  refine (State.inv_iff _).2 (State.Inv.resetFor_setIssuers (is := List.replicate n (Issuer.start [])) n hw ?_)
  intro i hi
  rw [List.eq_of_mem_replicate hi, Issuer.start]

theorem State.inv_startOfRun (n : Nat) {ps : Params} (ls : List ScriptLine) (hw : ps.wires.distinct = true) :
    (State.startOfRun n ps ls).inv = true := by
  refine (State.inv_iff _).2 (State.Inv.resetFor_setIssuers n hw fun i hi => ?_)
  obtain ⟨j, -, rfl⟩ := List.mem_map.1 hi
  rfl

/-- Settles O52: after reset and at the start of a run every issuer is `Idle`; the default wiring is distinct. -/
theorem resetMeetsTheInvariant : Obligations.ResetMeetsTheInvariant := by
  unfold Obligations.ResetMeetsTheInvariant
  exact ⟨State.inv_resetFor _ (by decide), fun n ps ls hw => ⟨State.inv_resetFor n hw, State.inv_startOfRun n ls hw⟩⟩

end Sys2Proof.Machine
